-- ==== Sys2Proof/Word.lean ====
section
/-! DEFINITION. The word types of the firmware-update block (00_scope.md R20: every value is unsigned). -/

namespace Sys2Proof

/-- `u8` (R20). -/
abbrev Byte := BitVec 8

/-- `u16` (R20). -/
abbrev U16 := BitVec 16

/-- `u32` (R20). -/
abbrev U32 := BitVec 32

end Sys2Proof
end

