-- ==== Sys2Proof/Config.lean ====
section
/-! DEFINITION. What is fixed for one block: the constants the source gives (00_scope.md R7 to R12, 40_crc8.md R141 to R144) and
the implementation parameters (00_scope.md section 3), which are opaque: no proof can learn a value of one, so a claim
about the block holds for every value (log entry 4). -/

namespace Sys2Proof

/-- The eleven named device status codes (R50). No numbering is implied (91_not_in_source.md N1). -/
inductive StatusCode where
  | locked | unlocked | done | inProc | wait | crcErr | eraseErr | writeErr | notBlank | openErr | reset
  deriving DecidableEq, Repr, Inhabited

/-- `REV_ORDER` (R17): how identity bytes 30 and 31 form the revision. -/
inductive RevOrder where
  | be | le
  deriving DecidableEq, Repr, Inhabited

/-- The four delays (R48). -/
inductive TimerKind where
  | unlockSettle | chunkSettle | poll | resetExit
  deriving DecidableEq, Repr, Inhabited

namespace Config

/-- `CHUNK_SIZE` (R7). -/
def chunkSize : Nat := 128

/-- `MAX_IMAGE` = 128 KiB (R8). -/
def maxImage : Nat := 131072

/-- `MIN_REV` (R9). -/
def minRev : U16 := 7#16

/-- `ID_BLOCK_LEN` (R10). -/
def idBlockLen : Nat := 32

/-- `UNLOCK_LEN` (R11). -/
def unlockLen : Nat := 13

/-- `FOOTER_MAGIC`, the characters `TS_UC_RA4M2` in ASCII (R12). -/
def footerMagic : Vector Byte 11 :=
  #v[0x54#8, 0x53#8, 0x5F#8, 0x55#8, 0x43#8, 0x5F#8, 0x52#8, 0x41#8, 0x34#8, 0x4D#8, 0x32#8]

/-- `CRC_POLY` (R141). -/
def crcPoly : Byte := 0x07#8

/-- `CRC_INIT` (R142). -/
def crcInit : Byte := 0x00#8

/-- `CRC_XOROUT` (R144). -/
def crcXorout : Byte := 0x00#8

/-- `DEV_ADDR` (R13): the spec's default is the source's example 0x10, and no rule depends on the value. -/
opaque devAddr : BitVec 7

/-- `MAGIC_KEY` (R14), OPEN. -/
opaque magicKey : U32

/-- `FLASH_LOC` (R15), OPEN. -/
opaque flashLoc : U32

/-- `STATUS_ENC` (R16), OPEN and injective: a permutation of the byte values, of which the model uses the values at the
eleven positions `StatusCode.position`. Every injective map of eleven codes into bytes extends to such a permutation
(`Machine.statusEnc_covers_every_injective_map`), so this leaves exactly R16's freedom (log entry 4). -/
opaque statusPerm : Equiv.Perm Byte

/-- `REV_ORDER` (R17), OPEN. -/
opaque revOrder : RevOrder

/-- `POLL_LIMIT` (R19): `none` is the spec's default, `some n` fails at the `n`-th `WAIT` in a row; left open so that both
blocks are covered. -/
opaque pollLimit : Option Nat

/-- `T_UNLOCK_SETTLE`, `T_CHUNK_SETTLE`, `T_POLL`, `T_RESET_EXIT` (R18), OPEN: no rule depends on a duration (R306). -/
opaque delay : TimerKind → Nat

end Config
end Sys2Proof
end

