-- ==== Sys2Proof/Syntax.lean ====
section
/-! DEFINITION. The operations of the block (00_scope.md R2): one constructor of `Instr` per row of spec/opcode_table.json,
with the operands that stand in the operation's word. What an operation takes from a register or an input port (the
frames, the footer) is no operand of its word. -/

namespace Sys2Proof

/-- The error codes of 60_exceptions.md R261; 9 to 15 are never written (93_implementation_defined.md S5). -/
inductive ErrCode where
  | none | invalidImage | unsupportedDevice | unlockRejected | ioError | writeFailed | deviceReportedError
  | readFailed | pollTimeout
  deriving DecidableEq, Repr, Inhabited

/-- The kinds of `OUT.INFO` (R116, R183). -/
inductive InfoKind where
  | upToDate | doneOk | doneWarn
  deriving DecidableEq, Repr, Inhabited

/-- One operation of the block. -/
inductive Instr where
  | crcNop (din : Byte)            -- R150
  | crcClear (din : Byte)          -- R151
  | crcUpdate (din : Byte)         -- R152
  | busIdRead                      -- R172
  | busUnlockWrite                 -- R173
  | busStatusRead                  -- R174
  | busChunkWrite                  -- R175
  | busResetWrite                  -- R176
  | imgRead (off : U32)            -- R177
  | tmrUnlockSettle                -- R178
  | tmrChunkSettle                 -- R179
  | tmrPoll                        -- R180
  | tmrResetExit                   -- R181
  | outProgress (remaining total : U32)                    -- R182
  | outInfo (kind : InfoKind)                              -- R183
  | outDiag (code : ErrCode) (info : Byte) (bus : Bool)    -- R184
  | ctlStart                       -- R185
  | ctlReset (start : Bool)        -- R291, `start` is don't care (R115)
  deriving DecidableEq, Repr

/-- An operator output event (10_state.md R49, 30_encoding.md R116). -/
inductive OutEvent where
  | progress (remaining total : U32)
  | info (kind : InfoKind)
  | diag (code : ErrCode) (info : Byte) (bus : Bool)
  deriving DecidableEq, Repr

/-- The output operation that appends an event. -/
def OutEvent.toInstr : OutEvent → Instr
  | .progress r t => .outProgress r t
  | .info k => .outInfo k
  | .diag c i b => .outDiag c i b

end Sys2Proof
end

