-- ==== Sys2Proof/WellFormed.lean ====
section
/-! DEFINITION. Well-formedness: the operands with which the spec says the block issues an operation. Decoding does not ask
for it, since an ill-formed word still has the meaning its rule gives it. -/

namespace Sys2Proof

/-- An image size that `VALIDATE` accepts (R80, R203): positive, at most 128 KiB, a multiple of 128. -/
def goodSize (size : U32) : Bool :=
  decide (0 < size.toNat) && decide (size.toNat ≤ Config.maxImage) && decide (size.toNat % Config.chunkSize = 0)

/-- The operands the spec allows an `OUT.DIAG` to record (the table of R261). -/
def goodDiag (code : ErrCode) (info : Byte) (bus : Bool) : Bool :=
  match code with
  | .none => false
  | .invalidImage | .unsupportedDevice | .ioError => info == 0#8 && !bus
  | .unlockRejected => !bus || info == 0#8
  | .writeFailed | .readFailed => info == 0#8 && bus
  | .deviceReportedError | .pollTimeout => !bus

/-- The operands with which the block issues each operation: `IMG.READ` at a multiple of 128 below the largest image (R177),
`OUT.PROGRESS` with what is left of an accepted image after a chunk (R182), `OUT.DIAG` with a row of R261. -/
def Instr.wf : Instr → Bool
  | .crcNop _ => true
  | .crcClear _ => true
  | .crcUpdate _ => true
  | .busIdRead => true
  | .busUnlockWrite => true
  | .busStatusRead => true
  | .busChunkWrite => true
  | .busResetWrite => true
  | .imgRead off => decide (off.toNat % Config.chunkSize = 0) && decide (off.toNat < Config.maxImage)
  | .tmrUnlockSettle => true
  | .tmrChunkSettle => true
  | .tmrPoll => true
  | .tmrResetExit => true
  | .outProgress remaining total =>
    goodSize total && decide (remaining.toNat < total.toNat) && decide (remaining.toNat % Config.chunkSize = 0)
  | .outInfo _ => true
  | .outDiag code info bus => goodDiag code info bus
  | .ctlStart => true
  | .ctlReset _ => true

end Sys2Proof
end

