-- ==== Sys2Proof/Decode.lean ====
section
/-! DEFINITION. Decoding and encoding (30_encoding.md). A word stands on one of the block's ports and is read by that port's
format: the same number means different operations on different ports, so a word here is a number together with its port. -/

namespace Sys2Proof

/-- A word on a port, in the width of the port's format (R101). `OUT_EVT` is a tagged record; the model lays its fields above
the tag in the order R116 lists them, 66 bits for the longest (log entry 8). -/
inductive PortWord where
  | crc (w : BitVec 10)    -- CRC_CMD, R102
  | bus (w : BitVec 9)     -- BUS_DESC, R104
  | img (w : BitVec 40)    -- IMG_REQ, R113
  | tmr (w : BitVec 2)     -- TMR_CMD, R114
  | out (w : BitVec 66)    -- OUT_EVT, R116
  | ctl (w : BitVec 2)     -- CTL, R115
  deriving DecidableEq, Repr

/-- Why a word is no operation. -/
inductive DecodeError where
  /-- `CRC_CMD` with `op` = 11 (R117, R154). -/
  | reservedCrcOp
  /-- A `BUS_DESC` other than the five of R105 (R118). -/
  | unusedBusDesc
  /-- `IMG_REQ` with `n` other than 128 (R118). -/
  | unusedImgCount
  /-- `OUT_EVT` tag 11 (R116, R118). -/
  | unusedOutTag
  /-- `OUT.INFO` kind 3 (R116, R118). -/
  | unusedInfoKind
  /-- An error code from 9 to 15 (R261). -/
  | unusedErrCode
  /-- A bit is set above the event's fields. -/
  | bitsAboveFields
  /-- `CTL` = 00, which is no command (R115). -/
  | noCommand
  deriving DecidableEq, Repr

/-- The number of an error code (R261). -/
def ErrCode.toBits : ErrCode → BitVec 4
  | .none => 0#4
  | .invalidImage => 1#4
  | .unsupportedDevice => 2#4
  | .unlockRejected => 3#4
  | .ioError => 4#4
  | .writeFailed => 5#4
  | .deviceReportedError => 6#4
  | .readFailed => 7#4
  | .pollTimeout => 8#4

/-- The error code of a number; 9 to 15 are unused (R261). -/
def ErrCode.ofBits (b : BitVec 4) : Option ErrCode :=
  if b = 0#4 then some .none
  else if b = 1#4 then some .invalidImage
  else if b = 2#4 then some .unsupportedDevice
  else if b = 3#4 then some .unlockRejected
  else if b = 4#4 then some .ioError
  else if b = 5#4 then some .writeFailed
  else if b = 6#4 then some .deviceReportedError
  else if b = 7#4 then some .readFailed
  else if b = 8#4 then some .pollTimeout
  else Option.none

/-- The number of an `OUT.INFO` kind (R116). -/
def InfoKind.toBits : InfoKind → BitVec 2
  | .upToDate => 0#2
  | .doneOk => 1#2
  | .doneWarn => 2#2

/-- The kind of a number; 3 is unused (R116). -/
def InfoKind.ofBits (b : BitVec 2) : Option InfoKind :=
  if b = 0#2 then some .upToDate
  else if b = 1#2 then some .doneOk
  else if b = 2#2 then some .doneWarn
  else Option.none

/-- `TMR_CMD` of a delay (R114). -/
def TimerKind.toBits : TimerKind → BitVec 2
  | .unlockSettle => 0#2
  | .chunkSettle => 1#2
  | .poll => 2#2
  | .resetExit => 3#2

/-- `BUS_DESC`: bit 8 is `dir` (1 = write), bits 7:0 are `len` (R104). -/
def busDesc (write : Bool) (len : Byte) : BitVec 9 := BitVec.ofBool write ++ len

/-- `BUS_DESC` of `BUS.ID_READ` (R105). -/
def descIdRead : BitVec 9 := busDesc false 32#8

/-- `BUS_DESC` of `BUS.UNLOCK_WRITE` (R105). -/
def descUnlockWrite : BitVec 9 := busDesc true 13#8

/-- `BUS_DESC` of `BUS.STATUS_READ` (R105). -/
def descStatusRead : BitVec 9 := busDesc false 1#8

/-- `BUS_DESC` of `BUS.CHUNK_WRITE` (R105). -/
def descChunkWrite : BitVec 9 := busDesc true 129#8

/-- `BUS_DESC` of `BUS.RESET_WRITE` (R105). -/
def descResetWrite : BitVec 9 := busDesc true 1#8

/-- `CRC_CMD`: bits 9:8 are `op`, bits 7:0 are `din` (R102, R103). -/
def decodeCrc (w : BitVec 10) : Except DecodeError Instr :=
  let op := w.extractLsb' 8 2
  let din := w.extractLsb' 0 8
  if op = 0#2 then .ok (.crcNop din)
  else if op = 1#2 then .ok (.crcClear din)
  else if op = 2#2 then .ok (.crcUpdate din)
  else .error .reservedCrcOp

/-- `BUS_DESC` (R105): direction and length select the operation. -/
def decodeBus (w : BitVec 9) : Except DecodeError Instr :=
  if w = descIdRead then .ok .busIdRead
  else if w = descStatusRead then .ok .busStatusRead
  else if w = descUnlockWrite then .ok .busUnlockWrite
  else if w = descChunkWrite then .ok .busChunkWrite
  else if w = descResetWrite then .ok .busResetWrite
  else .error .unusedBusDesc

/-- `IMG_REQ`: bits 39:32 are `n`, bits 31:0 are `off` (R113). -/
def decodeImg (w : BitVec 40) : Except DecodeError Instr :=
  if w.extractLsb' 32 8 = 128#8 then .ok (.imgRead (w.extractLsb' 0 32)) else .error .unusedImgCount

/-- `TMR_CMD` (R114). -/
def decodeTmr (w : BitVec 2) : Except DecodeError Instr :=
  if w = 0#2 then .ok .tmrUnlockSettle
  else if w = 1#2 then .ok .tmrChunkSettle
  else if w = 2#2 then .ok .tmrPoll
  else .ok .tmrResetExit

/-- `OUT_EVT` tag 01: `kind` in bits 3:2 (R116, log entry 8). -/
def decodeOutInfo (w : BitVec 66) : Except DecodeError Instr :=
  match InfoKind.ofBits (w.extractLsb' 2 2) with
  | none => .error .unusedInfoKind
  | some k => if w.extractLsb' 4 62 = 0#62 then .ok (.outInfo k) else .error .bitsAboveFields

/-- `OUT_EVT` tag 10: `code` in bits 5:2, `info` in bits 13:6, `bus` in bit 14 (R116, log entry 8). -/
def decodeOutDiag (w : BitVec 66) : Except DecodeError Instr :=
  match ErrCode.ofBits (w.extractLsb' 2 4) with
  | none => .error .unusedErrCode
  | some c =>
    if w.extractLsb' 15 51 = 0#51 then .ok (.outDiag c (w.extractLsb' 6 8) (w.getLsbD 14)) else .error .bitsAboveFields

/-- `OUT_EVT` (R116): bits 1:0 are the tag. -/
def decodeOut (w : BitVec 66) : Except DecodeError Instr :=
  let tag := w.extractLsb' 0 2
  if tag = 0#2 then .ok (.outProgress (w.extractLsb' 2 32) (w.extractLsb' 34 32))
  else if tag = 1#2 then decodeOutInfo w
  else if tag = 2#2 then decodeOutDiag w
  else .error .unusedOutTag

/-- `CTL` (R115): bit 1 is `rst`, bit 0 is `start`, and reset wins. -/
def decodeCtl (w : BitVec 2) : Except DecodeError Instr :=
  if w.getLsbD 1 then .ok (.ctlReset (w.getLsbD 0))
  else if w.getLsbD 0 then .ok .ctlStart
  else .error .noCommand

/-- The operation of a word on a port. -/
def decode : PortWord → Except DecodeError Instr
  | .crc w => decodeCrc w
  | .bus w => decodeBus w
  | .img w => decodeImg w
  | .tmr w => decodeTmr w
  | .out w => decodeOut w
  | .ctl w => decodeCtl w

/-- The word of an operation, on its port (R102 to R116). -/
def encode : Instr → PortWord
  | .crcNop din => .crc (0#2 ++ din)
  | .crcClear din => .crc (1#2 ++ din)
  | .crcUpdate din => .crc (2#2 ++ din)
  | .busIdRead => .bus descIdRead
  | .busUnlockWrite => .bus descUnlockWrite
  | .busStatusRead => .bus descStatusRead
  | .busChunkWrite => .bus descChunkWrite
  | .busResetWrite => .bus descResetWrite
  | .imgRead off => .img (128#8 ++ off)
  | .tmrUnlockSettle => .tmr TimerKind.unlockSettle.toBits
  | .tmrChunkSettle => .tmr TimerKind.chunkSettle.toBits
  | .tmrPoll => .tmr TimerKind.poll.toBits
  | .tmrResetExit => .tmr TimerKind.resetExit.toBits
  | .outProgress remaining total => .out (total ++ remaining ++ 0#2)
  | .outInfo kind => .out (0#62 ++ kind.toBits ++ 1#2)
  | .outDiag code info bus => .out (0#51 ++ BitVec.ofBool bus ++ info ++ code.toBits ++ 2#2)
  | .ctlStart => .ctl 1#2
  | .ctlReset start => .ctl (1#1 ++ BitVec.ofBool start)

/-- The number a port word is, as spec/opcode_table.json numbers its bits. -/
def PortWord.number : PortWord → Nat
  | .crc w => w.toNat
  | .bus w => w.toNat
  | .img w => w.toNat
  | .tmr w => w.toNat
  | .out w => w.toNat
  | .ctl w => w.toNat

/-- Does a word decode to an operation? -/
def PortWord.decodes (p : PortWord) : Bool := (decode p).toOption.isSome

/-- The number `w` as a word of the format, where it fits the format's width. -/
def wordIf {n : Nat} (mk : BitVec n → PortWord) (w : Nat) : List PortWord :=
  if w < 2 ^ n then [mk (BitVec.ofNat n w)] else []

/-- The ports on which a table word of `nbits` bits may stand, in the order in which they are tried. The table's rows give a
format's width but no port, and rows of different ports have equal words (log entry 7). -/
def tableCandidates (nbits w : Nat) : List PortWord :=
  if nbits ≤ 8 then wordIf .tmr w ++ wordIf .out w ++ wordIf .ctl w
  else if nbits ≤ 16 then if w < 1024 then wordIf .bus w ++ wordIf .crc w else wordIf .out w
  else if nbits ≤ 40 then wordIf .img w
  else wordIf .out w

/-- The port and word on which a table word is presented: the first candidate that decodes, else the last candidate, else
the unused `OUT_EVT` tag 11. -/
def tablePortWord (nbits w : Nat) : PortWord :=
  let candidates := tableCandidates nbits w
  match candidates.find? PortWord.decodes with
  | some p => p
  | none => candidates.getLastD (.out 3#66)

/-- The operation the decoder reads from a table word. -/
def decodeTableWord (nbits w : Nat) : Option Instr := (decode (tablePortWord nbits w)).toOption

end Sys2Proof
end

