-- ==== Sys2Proof/Machine/Env.lean ====
section
/-! DEFINITION. The environment (00_scope.md section 5, 10_state.md section 4): what the host, the transport and the image store do
on the block's input ports, step after step, without an end. -/

namespace Sys2Proof.Machine

/-- The footer input (R43). -/
structure Footer where
  binSize  : U32
  revision : Byte
  magic    : Vector Byte 11
  deriving DecidableEq, Repr, Inhabited

/-- The transport's answer to a request (R45). A read of `n` bytes takes the first `n` of `bytes`, so that its answer has
exactly `n` bytes; the longest read has 32 (R81). An answer to a write takes none. -/
inductive BusAnswer where
  | fail
  | ok (bytes : Vector Byte 32)
  deriving DecidableEq, Repr, Inhabited

/-- What the environment does on the block's input ports during one step. Every field is a draw (00_scope.md section 5): no
law relates it to anything, and a claim about every state holds for all of them (log entry 1). -/
structure Input where
  /-- The `CTL` word (R115). -/
  ctl : BitVec 2
  /-- The footer input (R43). -/
  footer : Footer
  /-- The transport's answer in this step, if it answers (R45). -/
  bus : Option BusAnswer
  /-- A read error of the image file: at most this many bytes are delivered (R46). -/
  imgCut : Option Nat
  /-- Changes of the image file after this step (R90): an offset and the byte there, or none where the file loses it. -/
  imgSet : List (Nat × Option Byte)
  /-- A word presented to a unit of the block run alone, as in program P5 of 95_test_vectors.md (log entry 6). -/
  unit : Option PortWord
  deriving DecidableEq, Repr, Inhabited

/-- A silent step of the environment: no command, no answer, no change (log entry 2). -/
def Input.silent : Input where
  ctl := 0#2
  footer := ⟨0#32, 0#8, Vector.replicate 11 0#8⟩
  bus := none
  imgCut := none
  imgSet := []
  unit := none

end Sys2Proof.Machine

namespace Sys2Proof

/-- The draws of an environment of which nothing is known: one for each step (log entry 2). No proof can learn one, so a claim
about them holds for every endless sequence of inputs. -/
opaque Config.draw : Nat → Machine.Input

end Sys2Proof

namespace Sys2Proof.Machine

/-- What the environment does after the inputs that are listed (log entry 2). -/
inductive Later where
  /-- These inputs, over and over, for ever: a device that answers `WAIT` for ever (R305) is one. Silence where there are none. -/
  | repeats (inputs : List Input)
  /-- The draws from number `k` on. -/
  | drawn (k : Nat)
  deriving DecidableEq, Repr

/-- The inputs of this step and of all the steps to come: those listed, one a step, and then `later`. -/
structure Env where
  listed : List Input
  later : Later
  deriving DecidableEq, Repr

/-- An environment that never does anything. -/
def Env.silent : Env := ⟨[], .repeats []⟩

/-- What stands on the input ports in this step. -/
def Env.now (e : Env) : Input :=
  match e.listed with
  | i :: _ => i
  | [] =>
    match e.later with
    | .repeats inputs => inputs.headD Input.silent
    | .drawn k => Config.draw k

/-- The environment from the next step on. -/
def Env.next (e : Env) : Env :=
  match e.listed with
  | _ :: rest => ⟨rest, e.later⟩
  | [] =>
    match e.later with
    | .repeats inputs => ⟨inputs.tail, .repeats inputs⟩
    | .drawn k => ⟨[], .drawn (k + 1)⟩

/-- What stands on the input ports in the `n`-th step from this one. -/
def Env.input : Env → Nat → Input
  | e, 0 => e.now
  | e, n + 1 => e.next.input n

/-- The inputs of the first `n` steps. -/
def Env.first : Env → Nat → List Input
  | _, 0 => []
  | e, n + 1 => e.now :: e.next.first n

/-- `e` with `i` on the input ports in this step, and the steps to come as they were. -/
def Env.place (e : Env) (i : Input) : Env := ⟨i :: e.next.listed, e.next.later⟩

end Sys2Proof.Machine
end

