-- ==== Sys2Proof/Machine/Operands.lean ====
section
/-! DEFINITION. The operand forms of the spec: byte order, the revision, the status byte, fixed-size buffers. A function that
depends on an implementation parameter takes it as an argument, so that it can be tested at any value; the meanings
pass the parameter of `Config`. -/

namespace Sys2Proof.Machine

/-- `le32(v)` (R21): the four bytes of `v`, bits 7:0 first. -/
def le32 (v : U32) : List Byte :=
  [v.extractLsb' 0 8, v.extractLsb' 8 8, v.extractLsb' 16 8, v.extractLsb' 24 8]

/-- Bytes 0 to 11 of the unlock request (R107, R121): `le32` of the key, the flash offset and the image size. -/
def unlockFields (key loc size : U32) : List Byte := le32 key ++ le32 loc ++ le32 size

/-- The revision of identity bytes 30 and 31 (R17, R122). -/
def revision (order : RevOrder) (b30 b31 : Byte) : U16 :=
  match order with
  | .be => (b30.setWidth 16 <<< 8) ||| b31.setWidth 16
  | .le => (b31.setWidth 16 <<< 8) ||| b30.setWidth 16

/-- The place of a code in the list of R50. It is only ever used under `Config.statusPerm`, so it implies no byte value. -/
def StatusCode.position : StatusCode → Nat
  | .locked => 0
  | .unlocked => 1
  | .done => 2
  | .inProc => 3
  | .wait => 4
  | .crcErr => 5
  | .eraseErr => 6
  | .writeErr => 7
  | .notBlank => 8
  | .openErr => 9
  | .reset => 10

/-- Every status code (R50). -/
def allStatusCodes : List StatusCode :=
  [.locked, .unlocked, .done, .inProc, .wait, .crcErr, .eraseErr, .writeErr, .notBlank, .openErr, .reset]

/-- `STATUS_ENC` (R16). -/
def statusEnc (c : StatusCode) : Byte := Config.statusPerm (BitVec.ofNat 8 (StatusCode.position c))

/-- What a status byte says (R112): a named code, or `Unknown(b)`. -/
inductive Status where
  | code (c : StatusCode)
  | unknown (b : Byte)
  deriving DecidableEq, Repr

/-- `decode(b)` of R112 for the encoding `enc`. -/
def decodeStatusWith (enc : StatusCode → Byte) (b : Byte) : Status :=
  match allStatusCodes.find? (fun c => enc c == b) with
  | some c => .code c
  | none => .unknown b

/-- `decode(b)` of R112. -/
def decodeStatus (b : Byte) : Status := decodeStatusWith statusEnc b

/-- The limit of R19 and R213: does the `WAIT` reply after `count` others reach it? -/
def pollExpired (limit : Option Nat) (count : Nat) : Bool :=
  match limit with
  | none => false
  | some n => decide (n ≤ count + 1)

/-- A buffer of `n` bytes that holds the bytes of `l` from index 0. -/
def bufOf (n : Nat) (l : List Byte) : Vector Byte n := Vector.ofFn fun i => l.getD i 0#8

end Sys2Proof.Machine
end

