-- ==== Sys2Proof/Machine/State.lean ====
section
/-! DEFINITION. The state of the block (10_state.md), of the parties behind its ports as far as the block meets them, and the
reasons a step can stop. -/

namespace Sys2Proof.Machine

/-- The twenty states of `fsm` (R32). Values 20 to 31 are never reached, and this type does not have them. -/
inductive Fsm where
  | idle | validate | idRead | gate | unlockBuild | unlockWrite | unlockSettle | unlockStatus | chunkRead | chunkWrite
  | chunkSettle | pollRead | pollDelay | advance | finalRead | resetWrite | resetDelay | complete | upToDate | fail
  deriving DecidableEq, Repr

/-- The bytes of the image file (R46, R71), as pairs of an offset and a byte, in rising order of offset. An offset with no
pair holds no byte: a read stops there. -/
abbrev Memory := List Host.Cell

/-- A request on a port that answers (R23): a bus transaction, an image read, a delay. -/
inductive PortRequest where
  | bus (addr : BitVec 7) (desc : BitVec 9) (frame : List Byte)
  | img (off : U32) (n : Nat)
  | tmr (kind : TimerKind)
  deriving DecidableEq, Repr

/-- The answer `r` an operation returns to the state that issued it (41_transactions.md R171). -/
inductive Reply where
  | ok (bytes : List Byte)     -- the transport: `ok`, with the bytes of a read
  | fail                       -- the transport: `fail`
  | image (bytes : List Byte)  -- the image port
  | timer                      -- the timer
  deriving DecidableEq, Repr

/-- What happens on the block's ports, for the history `State.trace` (log entry 13). -/
inductive Event where
  | issue (r : PortRequest)
  | answer (a : Reply)
  | out (e : OutEvent)
  deriving DecidableEq, Repr

/-- The state. -/
structure State where
  /-- R32. -/
  fsm : Fsm
  /-- R34. -/
  crc : Byte
  /-- R35. -/
  imgSize : U32
  /-- R36. -/
  imgRev : Byte
  /-- R37. -/
  imgMagic : Vector Byte 11
  /-- R38. -/
  devRev : U16
  /-- R39. -/
  offset : U32
  /-- R40. -/
  chunk : Vector Byte 129
  /-- R41. -/
  ubuf : Vector Byte 13
  /-- R42. -/
  idblk : Vector Byte 32
  /-- R52. -/
  st : Byte
  /-- R53: unbounded. -/
  waitCount : Nat
  /-- R54. -/
  err : ErrCode
  /-- R54. -/
  errInfo : Byte
  /-- R54. -/
  errBus : Bool
  /-- R55. -/
  doneSeen : Bool
  /-- R56. -/
  exitCode : Bool
  /-- R49: the operator output log, oldest event first. -/
  out : List OutEvent
  /-- R61: the request that waits for its answer. -/
  outstanding : Option PortRequest
  /-- The model's own: the answer just received, for the rule of the issuing state; `none` between steps. -/
  reply : Option Reply
  /-- The model's own: what happened on the ports since `CTL.RESET`, oldest first. -/
  trace : List Event
  /-- The environment's: the image file bound to the image port (R46). -/
  image : Memory
  /-- The environment's: what it does on the input ports in this step and all the steps to come. -/
  env : Env
  deriving DecidableEq, Repr

/-- Why the machine stops with a fault. -/
inductive Fault where
  /-- A port request is presented while another one waits for its answer. Raised by the ten operations that issue a port
  request. The spec gives such a second request no effect: R298 rules it out. Safe: the machine stops, and the sequencer
  never does it. -/
  | requestInFlight
  deriving DecidableEq, Repr

/-- Why the machine refuses a step. -/
inductive Refusal where
  /-- Raised by an arm of `exec` whose instruction has no meaning yet: none. Safe. -/
  | notModelled (mnemonic : String)
  /-- Raised by a step that is presented a word the spec reserves or leaves unused (R117, R118). Safe: the spec says
  that a model refuses it. -/
  | encoding (e : DecodeError)
  deriving DecidableEq, Repr

/-- The state after `CTL.RESET` (R61, R291), with no image bound and a silent environment. The registers R61 gives no value
hold zero (log entry 3). -/
def State.reset : State where
  fsm := .idle
  crc := 0x00#8
  imgSize := 0#32
  imgRev := 0#8
  imgMagic := Vector.replicate 11 0#8
  devRev := 0#16
  offset := 0#32
  chunk := Vector.replicate 129 0#8
  ubuf := Vector.replicate 13 0#8
  idblk := Vector.replicate 32 0#8
  st := 0#8
  waitCount := 0
  err := .none
  errInfo := 0#8
  errBus := false
  doneSeen := false
  exitCode := false
  out := []
  outstanding := none
  reply := none
  trace := []
  image := []
  env := Env.silent

end Sys2Proof.Machine
end

