-- ==== Sys2Proof/Machine/Flags.lean ====
section
/-! DEFINITION. The block's flags and its status word (10_state.md R52, R56 to R58). -/

namespace Sys2Proof.Machine

/-- The number of an `fsm` state (R32). -/
def Fsm.toBits : Fsm → BitVec 5
  | .idle => 0#5
  | .validate => 1#5
  | .idRead => 2#5
  | .gate => 3#5
  | .unlockBuild => 4#5
  | .unlockWrite => 5#5
  | .unlockSettle => 6#5
  | .unlockStatus => 7#5
  | .chunkRead => 8#5
  | .chunkWrite => 9#5
  | .chunkSettle => 10#5
  | .pollRead => 11#5
  | .pollDelay => 12#5
  | .advance => 13#5
  | .finalRead => 14#5
  | .resetWrite => 15#5
  | .resetDelay => 16#5
  | .complete => 17#5
  | .upToDate => 18#5
  | .fail => 19#5

/-- The terminal states (00_scope.md section 5, R32). -/
def Fsm.terminal : Fsm → Bool
  | .complete | .upToDate | .fail => true
  | _ => false

/-- `TERM` (R57): the run has ended (R228). -/
def State.term (s : State) : Bool := s.fsm.terminal

/-- `EXIT` (R57): `exit_code`, and 0 while `TERM` is 0. -/
def State.exitFlag (s : State) : Bool := s.term && s.exitCode

/-- The decoded status (R52). -/
def State.status (s : State) : Status := decodeStatus s.st

/-- `SEQ_STATUS` (R57). -/
def State.seqStatus (s : State) : BitVec 32 :=
  0#11 ++ BitVec.ofBool s.errBus ++ s.errInfo ++ s.err.toBits ++ BitVec.ofBool s.doneSeen ++ BitVec.ofBool s.exitFlag
    ++ BitVec.ofBool s.term ++ s.fsm.toBits

end Sys2Proof.Machine
end

