-- ==== Sys2Proof/Machine/Ops.lean ====
section
/-! DEFINITION. The shared operations: the image memory, the input ports, the port primitives of 00_scope.md R23, and the error
entry of 60_exceptions.md R262 with the reset that leaves it (R264, R291). -/

namespace Sys2Proof.Machine

/-! ## The image memory -/

/-- The number of offsets of the `IMG` space: an offset is a `u32` (R71). -/
def imgSpace : Nat := 2 ^ 32

/-- Are the offsets of `m` strictly rising and below `imgSpace`, the first at least `lo`? -/
def Memory.wfFrom (lo : Nat) : Memory → Bool
  | [] => true
  | (a, _) :: rest => decide (lo ≤ a) && decide (a < imgSpace) && Memory.wfFrom (a + 1) rest

/-- The canonical form of the image memory. -/
def Memory.wf (m : Memory) : Bool := Memory.wfFrom 0 m

/-- The byte at offset `a`, if the file has one there. -/
def Memory.get? : Memory → Nat → Option Byte
  | [], _ => none
  | (b, v) :: rest, a => if a = b then some v else Memory.get? rest a

/-- Insert or replace the byte at `a`, keeping the order. -/
def Memory.insert : Memory → Nat → Byte → Memory
  | [], a, v => [(a, v)]
  | (b, w) :: rest, a, v =>
    if a < b then (a, v) :: (b, w) :: rest
    else if a = b then (a, v) :: rest
    else (b, w) :: Memory.insert rest a v

/-- Drop the byte at `a`. -/
def Memory.erase : Memory → Nat → Memory
  | [], _ => []
  | (b, w) :: rest, a => if a = b then rest else (b, w) :: Memory.erase rest a

/-- Set the byte at `a`, or drop it. An offset outside the `IMG` space does not exist, and nothing changes. -/
def Memory.set (m : Memory) (a : Nat) (v : Option Byte) : Memory :=
  if a < imgSpace then
    match v with
    | some b => m.insert a b
    | none => m.erase a
  else m

/-- Apply the image store's changes in order (R90). -/
def Memory.update (m : Memory) (changes : List (Nat × Option Byte)) : Memory :=
  changes.foldl (fun m c => m.set c.1 c.2) m

/-- The bytes at `a`, `a + 1`, ..., at most `n` of them, up to the first offset that holds none: a short read (R23, R46). -/
def Memory.readRun (m : Memory) (a : Nat) : Nat → List Byte
  | 0 => []
  | n + 1 =>
    match m.get? a with
    | none => []
    | some b => b :: m.readRun (a + 1) n

/-! ## Outcomes and the input ports -/

/-- Go on with `f` after a next state; a fault or a refusal stays. -/
def andThen (o : Host.Outcome State Fault Refusal) (f : State → Host.Outcome State Fault Refusal) :
    Host.Outcome State Fault Refusal :=
  match o with
  | .next s => f s
  | .fault r => .fault r
  | .refused r => .refused r

/-- What stands on the input ports in this step. -/
def State.port (s : State) : Input := s.env.now

/-- `rst` (R115): bit 1 of `CTL`. -/
def Input.rst (i : Input) : Bool := i.ctl.getLsbD 1

/-- `start` (R115): bit 0 of `CTL`. -/
def Input.start (i : Input) : Bool := i.ctl.getLsbD 0

/-- The end of a step: the answer has been used, the image store's changes take effect, and the input ports move on. -/
def State.endStep (s : State) : State :=
  { s with reply := none, image := s.image.update s.port.imgSet, env := s.env.next }

/-! ## Port primitives -/

/-- `Emit(event)` (R23, R49): append to the operator output log. -/
def State.emit (e : OutEvent) (s : State) : State :=
  { s with out := s.out ++ [e], trace := s.trace ++ [.out e] }

/-- The state with request `r` on its port: issued now, or still there from an earlier step. -/
def State.issued (r : PortRequest) (s : State) : State :=
  { s with
    outstanding := some r
    reply := none
    trace := if s.outstanding = none then s.trace ++ [.issue r] else s.trace }

/-- The state after the port answered `a`. -/
def State.answered (a : Reply) (s : State) : State :=
  { s with outstanding := none, reply := some a, trace := s.trace ++ [.answer a] }

/-- May request `r` stand on its port: no request waits, or `r` itself does (R171)? -/
def State.ready (s : State) (r : PortRequest) : Bool :=
  decide (s.outstanding = none) || decide (s.outstanding = some r)

/-- Issue request `r`, or go on waiting for it (R171). -/
def issue (r : PortRequest) (s : State) : Host.Outcome State Fault Refusal :=
  if s.ready r then .next (s.issued r) else .fault .requestInFlight

/-- The transport's answer as the issuing state sees it: a write (bit 8 of `desc`) returns no bytes, a read as many as
`desc` asks for (R45, R104). -/
def busReply (desc : BitVec 9) : BusAnswer → Reply
  | .fail => .fail
  | .ok bytes => .ok (if desc.getLsbD 8 then [] else bytes.toList.take (desc.extractLsb' 0 8).toNat)

/-- The state after a transport request whose answer, if there is one yet, is `a` (R45, R171). -/
def State.transacted (r : PortRequest) (desc : BitVec 9) (a : Option BusAnswer) (s : State) : State :=
  match a with
  | none => s.issued r
  | some a => (s.issued r).answered (busReply desc a)

/-- `BusWrite(frame)` or `BusRead(n)` (R23): one transaction with the device at `DEV_ADDR`. -/
def transport (desc : BitVec 9) (frame : List Byte) (s : State) : Host.Outcome State Fault Refusal :=
  let r := PortRequest.bus Config.devAddr desc frame
  andThen (issue r s) fun _ => .next (s.transacted r desc s.port.bus)

/-- The bytes an image read delivers: up to `n` from `off`, fewer at a short read or a read error (R46). -/
def State.imageBytes (s : State) (off : U32) (n : Nat) : List Byte :=
  let d := s.image.readRun off.toNat n
  match s.port.imgCut with
  | none => d
  | some k => d.take k

/-- `MemRead(IMG, off, n)` (R23): the image port always answers (R46). -/
def memRead (off : U32) (n : Nat) (s : State) : Host.Outcome State Fault Refusal :=
  andThen (issue (.img off n) s) fun t => .next (t.answered (.image (s.imageBytes off n)))

/-- `Delay(kind)` (R23): the timer always answers (R48). -/
def delay (kind : TimerKind) (s : State) : Host.Outcome State Fault Refusal :=
  andThen (issue (.tmr kind) s) fun t => .next (t.answered .timer)

/-! ## The error entry and the reset -/

/-- `raise Fatal(code, info, bus)` (R262): the error registers, the diagnostic, the exit code, `FAIL`. The state given is the
one before the step's writes, except `st` where the step read a status byte. -/
def State.raiseFatal (code : ErrCode) (info : Byte) (bus : Bool) (s : State) : State :=
  { s.emit (.diag code info bus) with err := code, errInfo := info, errBus := bus, exitCode := true, fsm := .fail }

/-- The block's reset (R291): every register takes its reset value and an outstanding request is abandoned (R292). The image
and the input ports are the environment's and stay. -/
def State.resetBlock (s : State) : State := { State.reset with image := s.image, env := s.env }

end Sys2Proof.Machine
end

