-- ==== Sys2Proof/Machine/Bus.lean ====
section
/-! DEFINITION. The bus operations (41_transactions.md section 2). Each issues its transaction and returns the transport's
answer in `State.reply`; the state that issued it decides what the answer means (Machine/Sequencer.lean). -/

namespace Sys2Proof.Machine

/-- `BUS.ID_READ` (R172): `BusRead(32)`. -/
def execBusIdRead (s : State) : Host.Outcome State Fault Refusal := transport descIdRead [] s

/-- `BUS.UNLOCK_WRITE` (R173): `BusWrite(ubuf[0..12])`. -/
def execBusUnlockWrite (s : State) : Host.Outcome State Fault Refusal := transport descUnlockWrite s.ubuf.toList s

/-- `BUS.STATUS_READ` (R174): `BusRead(1)`. -/
def execBusStatusRead (s : State) : Host.Outcome State Fault Refusal := transport descStatusRead [] s

/-- `BUS.CHUNK_WRITE` (R175): `BusWrite(chunk[0..128])`. -/
def execBusChunkWrite (s : State) : Host.Outcome State Fault Refusal := transport descChunkWrite s.chunk.toList s

/-- `BUS.RESET_WRITE` (R176): `BusWrite([STATUS_ENC(RESET)])`. -/
def execBusResetWrite (s : State) : Host.Outcome State Fault Refusal := transport descResetWrite [statusEnc .reset] s

end Sys2Proof.Machine
end

