-- ==== Sys2Proof/Machine/Control.lean ====
section
/-! DEFINITION. The host's control commands (41_transactions.md section 6, 70_reset_and_hazards.md section 1). -/

namespace Sys2Proof.Machine

/-- `CTL.START` (R185): in `IDLE` it latches the footer; elsewhere it has no effect. -/
def execCtlStart (s : State) : Host.Outcome State Fault Refusal :=
  if s.fsm = .idle then
    .next { s with
      imgSize := s.port.footer.binSize
      imgRev := s.port.footer.revision
      imgMagic := s.port.footer.magic
      fsm := .validate }
  else .next s

/-- `CTL.RESET` (R291), whatever `start` is. -/
def execCtlReset (_start : Bool) (s : State) : Host.Outcome State Fault Refusal := .next s.resetBlock

end Sys2Proof.Machine
end

