-- ==== Sys2Proof/Machine/Image.lean ====
section
/-! DEFINITION. The image operation (41_transactions.md section 3). -/

namespace Sys2Proof.Machine

/-- `IMG.READ off` (R177): `MemRead(IMG, off, 128)`. -/
def execImgRead (off : U32) (s : State) : Host.Outcome State Fault Refusal := memRead off Config.chunkSize s

end Sys2Proof.Machine
end

