-- ==== Sys2Proof/Machine/Output.lean ====
section
/-! DEFINITION. The output operations (41_transactions.md section 5). -/

namespace Sys2Proof.Machine

/-- `OUT.PROGRESS remaining, total` (R182). -/
def execOutProgress (remaining total : U32) (s : State) : Host.Outcome State Fault Refusal :=
  .next (s.emit (.progress remaining total))

/-- `OUT.INFO kind` (R183). -/
def execOutInfo (kind : InfoKind) (s : State) : Host.Outcome State Fault Refusal := .next (s.emit (.info kind))

/-- `OUT.DIAG code, info, bus` (R184). -/
def execOutDiag (code : ErrCode) (info : Byte) (bus : Bool) (s : State) : Host.Outcome State Fault Refusal :=
  .next (s.emit (.diag code info bus))

end Sys2Proof.Machine
end

