-- ==== Sys2Proof/Machine/Timer.lean ====
section
/-! DEFINITION. The timer operations (41_transactions.md section 4). A delay takes no time in the model (R306). -/

namespace Sys2Proof.Machine

/-- `TMR.UNLOCK_SETTLE` (R178). -/
def execTmrUnlockSettle (s : State) : Host.Outcome State Fault Refusal := delay .unlockSettle s

/-- `TMR.CHUNK_SETTLE` (R179). -/
def execTmrChunkSettle (s : State) : Host.Outcome State Fault Refusal := delay .chunkSettle s

/-- `TMR.POLL` (R180). -/
def execTmrPoll (s : State) : Host.Outcome State Fault Refusal := delay .poll s

/-- `TMR.RESET_EXIT` (R181). -/
def execTmrResetExit (s : State) : Host.Outcome State Fault Refusal := delay .resetExit s

end Sys2Proof.Machine
end

