-- ==== Sys2Proof/Machine/Dispatch.lean ====
section
/-! DEFINITION. One arm per operation. -/

namespace Sys2Proof.Machine

/-- What one operation of the block does. -/
def exec (i : Instr) (s : State) : Host.Outcome State Fault Refusal :=
  match i with
  | .crcNop din => Sys2Proof.Machine.execCrcNop din s
  | .crcClear din => Sys2Proof.Machine.execCrcClear din s
  | .crcUpdate din => Sys2Proof.Machine.execCrcUpdate din s
  | .busIdRead => Sys2Proof.Machine.execBusIdRead s
  | .busUnlockWrite => Sys2Proof.Machine.execBusUnlockWrite s
  | .busStatusRead => Sys2Proof.Machine.execBusStatusRead s
  | .busChunkWrite => Sys2Proof.Machine.execBusChunkWrite s
  | .busResetWrite => Sys2Proof.Machine.execBusResetWrite s
  | .imgRead off => Sys2Proof.Machine.execImgRead off s
  | .tmrUnlockSettle => Sys2Proof.Machine.execTmrUnlockSettle s
  | .tmrChunkSettle => Sys2Proof.Machine.execTmrChunkSettle s
  | .tmrPoll => Sys2Proof.Machine.execTmrPoll s
  | .tmrResetExit => Sys2Proof.Machine.execTmrResetExit s
  | .outProgress remaining total => Sys2Proof.Machine.execOutProgress remaining total s
  | .outInfo kind => Sys2Proof.Machine.execOutInfo kind s
  | .outDiag code info bus => Sys2Proof.Machine.execOutDiag code info bus s
  | .ctlStart => Sys2Proof.Machine.execCtlStart s
  | .ctlReset start => Sys2Proof.Machine.execCtlReset start s

end Sys2Proof.Machine
end

