-- ==== Sys2Proof/Machine/Sequencer.lean ====
section
/-! DEFINITION. The update sequencer (42_sequencer.md): which operation each state issues, and each state's rule for the answer. -/

namespace Sys2Proof.Machine

/-- Operations issued one after another within a step. -/
def runOps : List Instr → State → Host.Outcome State Fault Refusal
  | [], s => .next s
  | i :: rest, s => andThen (exec i s) (runOps rest)

/-- `crc.block` (R125): `CRC.CLEAR`, then one `CRC.UPDATE` per byte. `CRC.CLEAR` is issued with `din` = 0, as in
95_test_vectors.md P1. -/
def crcBlock (bytes : List Byte) (s : State) : Host.Outcome State Fault Refusal :=
  runOps (.crcClear 0#8 :: bytes.map .crcUpdate) s

/-- The first byte of a status answer. -/
def statusByte (bytes : List Byte) : Byte := bytes.headD 0#8

/-- `VALIDATE` (R203). -/
def ruleValidate (s : State) : Host.Outcome State Fault Refusal :=
  if s.imgMagic ≠ Config.footerMagic then .next (s.raiseFatal .invalidImage 0#8 false)
  else if s.imgSize.toNat = 0 then .next (s.raiseFatal .invalidImage 0#8 false)
  else if s.imgSize.toNat > Config.maxImage then .next (s.raiseFatal .invalidImage 0#8 false)
  else if s.imgSize.toNat % Config.chunkSize ≠ 0 then .next (s.raiseFatal .invalidImage 0#8 false)
  else .next { s with fsm := .idRead }

/-- `ID_READ` (R204), after `BUS.ID_READ`. -/
def ruleIdRead (s : State) : Host.Outcome State Fault Refusal :=
  match s.reply with
  | some .fail => .next (s.raiseFatal .readFailed 0#8 true)
  | some (.ok bytes) =>
    .next { s with
      idblk := bufOf 32 bytes
      devRev := revision Config.revOrder (bytes.getD 30 0#8) (bytes.getD 31 0#8)
      fsm := .gate }
  | _ => .next s

/-- `GATE` (R205): the minimum is tested first (R266). -/
def ruleGate (s : State) : Host.Outcome State Fault Refusal :=
  if s.devRev < Config.minRev then .next (s.raiseFatal .unsupportedDevice 0#8 false)
  else if s.devRev = s.imgRev.setWidth 16 then
    andThen (exec (.outInfo .upToDate) s) fun t => .next { t with exitCode := false, fsm := .upToDate }
  else .next { s with fsm := .unlockBuild }

/-- `UNLOCK_BUILD` (R206): the fields, sealed with the generator's register. -/
def ruleUnlockBuild (s : State) : Host.Outcome State Fault Refusal :=
  let fields := unlockFields Config.magicKey Config.flashLoc s.imgSize
  andThen (crcBlock fields s) fun t => .next { t with ubuf := bufOf 13 (fields ++ [t.crc]), fsm := .unlockWrite }

/-- A write state, after its write: `WriteFailed`, or the next state (R207, R211, R217). -/
def ruleWritten (next : Fsm) (s : State) : Host.Outcome State Fault Refusal :=
  match s.reply with
  | some .fail => .next (s.raiseFatal .writeFailed 0#8 true)
  | some (.ok _) => .next { s with fsm := next }
  | _ => .next s

/-- `UNLOCK_WRITE` (R207), after `BUS.UNLOCK_WRITE`. -/
def ruleUnlockWrite (s : State) : Host.Outcome State Fault Refusal := ruleWritten .unlockSettle s

/-- `UNLOCK_SETTLE` (R208), after `TMR.UNLOCK_SETTLE`. -/
def ruleUnlockSettle (s : State) : Host.Outcome State Fault Refusal := .next { s with fsm := .unlockStatus }

/-- `UNLOCK_STATUS` (R209), after `BUS.STATUS_READ`. -/
def ruleUnlockStatus (s : State) : Host.Outcome State Fault Refusal :=
  match s.reply with
  | some .fail => .next (s.raiseFatal .unlockRejected 0#8 true)
  | some (.ok bytes) =>
    let b := statusByte bytes
    let t := { s with st := b }
    if decodeStatus b = .code .unlocked then .next { t with offset := 0#32, fsm := .chunkRead }
    else .next (t.raiseFatal .unlockRejected b false)
  | _ => .next s

/-- `CHUNK_READ` (R210), after `IMG.READ`: a full read is sealed with the generator's register. -/
def ruleChunkRead (s : State) : Host.Outcome State Fault Refusal :=
  match s.reply with
  | some (.image d) =>
    if d.length < Config.chunkSize then .next (s.raiseFatal .ioError 0#8 false)
    else
      andThen (crcBlock d s) fun t =>
        .next { t with chunk := bufOf 129 (d ++ [t.crc]), waitCount := 0, fsm := .chunkWrite }
  | _ => .next s

/-- `CHUNK_WRITE` (R211), after `BUS.CHUNK_WRITE`. -/
def ruleChunkWrite (s : State) : Host.Outcome State Fault Refusal := ruleWritten .chunkSettle s

/-- `CHUNK_SETTLE` (R212), after `TMR.CHUNK_SETTLE`. -/
def ruleChunkSettle (s : State) : Host.Outcome State Fault Refusal := .next { s with fsm := .pollRead }

/-- What `POLL_READ` does with status byte `b` under `limit` (R213). -/
def pollVerdict (limit : Option Nat) (b : Byte) (s : State) : State :=
  let t := { s with st := b }
  match decodeStatus b with
  | .code .wait =>
    if pollExpired limit s.waitCount then t.raiseFatal .pollTimeout b false
    else { t with waitCount := s.waitCount + 1, fsm := .pollDelay }
  | .code .inProc => { t with fsm := .advance }
  | .code .done => { t with fsm := .advance }
  | _ => t.raiseFatal .deviceReportedError b false

/-- `POLL_READ` (R213), after `BUS.STATUS_READ`. -/
def rulePollRead (s : State) : Host.Outcome State Fault Refusal :=
  match s.reply with
  | some .fail => .next (s.raiseFatal .readFailed 0#8 true)
  | some (.ok bytes) => .next (pollVerdict Config.pollLimit (statusByte bytes) s)
  | _ => .next s

/-- `POLL_DELAY` (R214), after `TMR.POLL`. -/
def rulePollDelay (s : State) : Host.Outcome State Fault Refusal := .next { s with fsm := .pollRead }

/-- The offset after a chunk (R215): the old one plus `CHUNK_SIZE`. -/
def State.nextOffset (s : State) : U32 := s.offset + 128#32

/-- `ADVANCE` (R215), after `OUT.PROGRESS`. -/
def ruleAdvance (s : State) : Host.Outcome State Fault Refusal :=
  .next { s with
    offset := s.nextOffset
    fsm := if s.nextOffset = s.imgSize then .finalRead else .chunkRead }

/-- `FINAL_READ` (R216), after `BUS.STATUS_READ`. -/
def ruleFinalRead (s : State) : Host.Outcome State Fault Refusal :=
  match s.reply with
  | some .fail => .next (s.raiseFatal .readFailed 0#8 true)
  | some (.ok bytes) =>
    let b := statusByte bytes
    let done := decide (decodeStatus b = .code .done)
    andThen (exec (.outInfo (if done then .doneOk else .doneWarn)) s) fun t =>
      .next { t with st := b, doneSeen := done, fsm := .resetWrite }
  | _ => .next s

/-- `RESET_WRITE` (R217), after `BUS.RESET_WRITE`. -/
def ruleResetWrite (s : State) : Host.Outcome State Fault Refusal := ruleWritten .resetDelay s

/-- `RESET_DELAY` (R218), after `TMR.RESET_EXIT`. -/
def ruleResetDelay (s : State) : Host.Outcome State Fault Refusal := .next { s with exitCode := false, fsm := .complete }

/-- The port operation a state issues, unconditionally, at the start of its step (R186). `VALIDATE` and `GATE` are internal
computations, `UNLOCK_BUILD` drives the CRC generator, `IDLE` and the terminal states issue nothing; the operations a
rule issues on a condition (`OUT.INFO`, the CRC of a full read) stand in the rule. -/
def stateOp (s : State) : Option Instr :=
  match s.fsm with
  | .idle => none
  | .validate => none
  | .idRead => some .busIdRead
  | .gate => none
  | .unlockBuild => none
  | .unlockWrite => some .busUnlockWrite
  | .unlockSettle => some .tmrUnlockSettle
  | .unlockStatus => some .busStatusRead
  | .chunkRead => some (.imgRead s.offset)
  | .chunkWrite => some .busChunkWrite
  | .chunkSettle => some .tmrChunkSettle
  | .pollRead => some .busStatusRead
  | .pollDelay => some .tmrPoll
  | .advance => some (.outProgress (s.imgSize - s.nextOffset) s.imgSize)
  | .finalRead => some .busStatusRead
  | .resetWrite => some .busResetWrite
  | .resetDelay => some .tmrResetExit
  | .complete => none
  | .upToDate => none
  | .fail => none

/-- The rule of a state (R201), for the state after its port operation. `IDLE` waits (R202); a terminal state takes no step
(R219 to R221), which here is a step that changes nothing (log entry 10). -/
def stateRule (f : Fsm) (s : State) : Host.Outcome State Fault Refusal :=
  match f with
  | .idle => .next s
  | .validate => ruleValidate s
  | .idRead => ruleIdRead s
  | .gate => ruleGate s
  | .unlockBuild => ruleUnlockBuild s
  | .unlockWrite => ruleUnlockWrite s
  | .unlockSettle => ruleUnlockSettle s
  | .unlockStatus => ruleUnlockStatus s
  | .chunkRead => ruleChunkRead s
  | .chunkWrite => ruleChunkWrite s
  | .chunkSettle => ruleChunkSettle s
  | .pollRead => rulePollRead s
  | .pollDelay => rulePollDelay s
  | .advance => ruleAdvance s
  | .finalRead => ruleFinalRead s
  | .resetWrite => ruleResetWrite s
  | .resetDelay => ruleResetDelay s
  | .complete => .next s
  | .upToDate => .next s
  | .fail => .next s

/-- The sequencer's step (R201): the state's port operation and its rule. While the transport has not answered, the rule
leaves the state as it is (R171). -/
def sequencerStep (s : State) : Host.Outcome State Fault Refusal :=
  match stateOp s with
  | some i => andThen (exec i s) (stateRule s.fsm)
  | none => stateRule s.fsm s

/-- A word presented to a unit run alone (log entry 6). A reserved or unused word is refused (R117, R118); `CTL` = 00 is no
command (R115). -/
def runUnit (w : PortWord) (s : State) : Host.Outcome State Fault Refusal :=
  match decode w with
  | .ok i => exec i s
  | .error .noCommand => .next s
  | .error e => .refused (.encoding e)

/-- The step with `rst` low: a word presented to a unit, else the host's start command in `IDLE`, else the sequencer, on which
a start command outside `IDLE` has no effect (R185). DESIGN CHOICE (log entry 20): a request that a unit run alone left
unanswered holds the sequencer up only where it issues a request of its own. -/
def operate (s : State) : Host.Outcome State Fault Refusal :=
  match s.port.unit with
  | some w => runUnit w s
  | none => if s.port.start && decide (s.fsm = .idle) then exec .ctlStart s else sequencerStep s

/-- One step before the input ports move on: `rst` wins over everything (R267, R292). -/
def perform (s : State) : Host.Outcome State Fault Refusal :=
  if s.port.rst then exec (.ctlReset s.port.start) s else operate s

/-- One step. -/
def cycle (s : State) : Host.Outcome State Fault Refusal := andThen (perform s) fun t => .next t.endStep

/-- The input ports with a table word on the port it belongs to: the control port for `CTL`, else the unit slot. -/
def Input.present (i : Input) : PortWord → Input
  | .ctl w => { i with ctl := w, unit := none }
  | p => { i with ctl := 0#2, unit := some p }

end Sys2Proof.Machine
end

