-- ==== Sys2Proof/Machine/Step.lean ====
section
/-! DEFINITION. The step function, and the placing of a word where the next step runs it. -/

namespace Sys2Proof.Machine

/-- One step of the block. -/
def step (s : State) : Host.Outcome State Fault Refusal := cycle s

/-- `s` with a table word on its port in this step, so that the next step runs it. The rest of the input is left alone. -/
def State.withFetchWord (s : State) (nbits w : Nat) : State :=
  { s with env := s.env.place (s.port.present (tablePortWord nbits w)) }

end Sys2Proof.Machine
end

