-- ==== Sys2Proof/Safety.lean ====
section
/-! DEFINITION. The terms in which claims are made: the invariant of a run, the history on the ports, the protocol that history
follows, and what two states must share for the block to behave alike in both. -/

namespace Sys2Proof.Machine

/-! ## One step -/

/-- Neither a reset nor a word for a unit run alone stands on the input ports: the step is the sequencer's, or a start. -/
def State.quiet (s : State) : Bool := !s.port.rst && s.port.unit.isNone

/-- The transport request a state issues (R186), with the frame it sends. -/
def State.transportRequest (s : State) : Option PortRequest :=
  match s.fsm with
  | .idRead => some (.bus Config.devAddr descIdRead [])
  | .unlockWrite => some (.bus Config.devAddr descUnlockWrite s.ubuf.toList)
  | .unlockStatus | .pollRead | .finalRead => some (.bus Config.devAddr descStatusRead [])
  | .chunkWrite => some (.bus Config.devAddr descChunkWrite s.chunk.toList)
  | .resetWrite => some (.bus Config.devAddr descResetWrite [statusEnc .reset])
  | _ => none

/-- The states a step may lead to without an error (R222). -/
def Fsm.successors : Fsm → List Fsm
  | .idle => [.validate]
  | .validate => [.idRead]
  | .idRead => [.gate]
  | .gate => [.unlockBuild, .upToDate]
  | .unlockBuild => [.unlockWrite]
  | .unlockWrite => [.unlockSettle]
  | .unlockSettle => [.unlockStatus]
  | .unlockStatus => [.chunkRead]
  | .chunkRead => [.chunkWrite]
  | .chunkWrite => [.chunkSettle]
  | .chunkSettle => [.pollRead]
  | .pollRead => [.pollDelay, .advance]
  | .pollDelay => [.pollRead]
  | .advance => [.chunkRead, .finalRead]
  | .finalRead => [.resetWrite]
  | .resetWrite => [.resetDelay]
  | .resetDelay => [.complete]
  | .complete | .upToDate | .fail => []

/-- The errors each state may raise (R222, R261). -/
def Fsm.errors : Fsm → List ErrCode
  | .validate => [.invalidImage]
  | .idRead => [.readFailed]
  | .gate => [.unsupportedDevice]
  | .unlockWrite => [.writeFailed]
  | .unlockStatus => [.unlockRejected]
  | .chunkRead => [.ioError]
  | .chunkWrite => [.writeFailed]
  | .pollRead => [.readFailed, .deviceReportedError, .pollTimeout]
  | .finalRead => [.readFailed]
  | .resetWrite => [.writeFailed]
  | _ => []

/-- May the block stay where it is: it waits for the host or the transport (R171, R202), or its run has ended (R228)? -/
def Fsm.mayStay : Fsm → Bool
  | .idle | .complete | .upToDate | .fail => true
  | .idRead | .unlockWrite | .unlockStatus | .chunkWrite | .pollRead | .finalRead | .resetWrite => true
  | _ => false

/-! ## Phases of a run -/

/-- `VALIDATE` has accepted the footer. -/
def Fsm.accepted : Fsm → Bool
  | .idle | .validate | .fail => false
  | _ => true

/-- `ID_READ` has read the identity block. -/
def Fsm.identified : Fsm → Bool
  | .idle | .validate | .idRead | .fail => false
  | _ => true

/-- `GATE` has let the update proceed. -/
def Fsm.gated : Fsm → Bool
  | .idle | .validate | .idRead | .gate | .upToDate | .fail => false
  | _ => true

/-- `UNLOCK_BUILD` has built the unlock request. -/
def Fsm.built : Fsm → Bool
  | .idle | .validate | .idRead | .gate | .unlockBuild | .upToDate | .fail => false
  | _ => true

/-- The chunk transfer (R223, first clause). -/
def Fsm.transferring : Fsm → Bool
  | .chunkRead | .chunkWrite | .chunkSettle | .pollRead | .pollDelay | .advance => true
  | _ => false

/-- `FINAL_READ` and every later state except `FAIL` (R223, second clause). -/
def Fsm.finalizing : Fsm → Bool
  | .finalRead | .resetWrite | .resetDelay | .complete => true
  | _ => false

/-- `chunk` holds a chunk of this run. -/
def Fsm.loaded : Fsm → Bool
  | .chunkRead => false
  | f => f.transferring || f.finalizing

/-! ## The invariant -/

/-- Is the event a diagnostic? -/
def isDiag : OutEvent → Bool
  | .diag _ _ _ => true
  | .progress _ _ => false
  | .info _ => false

/-- What holds of every reachable state of the block, no unit being run alone: R223 with what the other rules keep. -/
structure Inv (s : State) : Prop where
  /-- No unit is run alone, now or later: the premise of the block's own rules (R31). -/
  noUnit : ∀ n, (s.env.input n).unit = none
  /-- The image memory is canonical (log entry 5). -/
  imageWf : s.image.wf = true
  /-- No answer is left over between steps. -/
  replyNone : s.reply = none
  /-- At most the current state's own transport request waits for its answer (R45, R86). -/
  inFlight : s.outstanding = none ∨ (s.outstanding.isSome ∧ s.outstanding = s.transportRequest)
  /-- The footer is checked before any device contact (R203). -/
  imageGood : s.fsm.accepted → s.imgMagic = Config.footerMagic ∧ goodSize s.imgSize
  /-- `dev_rev` is the identity block's revision (R122). -/
  revision : s.fsm.identified → s.devRev = Machine.revision Config.revOrder s.idblk[30] s.idblk[31]
  /-- The gate (R205). -/
  gatePassed : s.fsm.gated → Config.minRev ≤ s.devRev ∧ s.devRev ≠ s.imgRev.setWidth 16
  /-- The gate's benign end (R220). -/
  upToDate : s.fsm = .upToDate → Config.minRev ≤ s.devRev ∧ s.devRev = s.imgRev.setWidth 16
  /-- The unlock request, sealed (R107, R108). -/
  unlockFrame : s.fsm.built → s.ubuf.toList = unlockFields Config.magicKey Config.flashLoc s.imgSize
    ++ [crc8 (unlockFields Config.magicKey Config.flashLoc s.imgSize)]
  /-- R223, first clause. -/
  offsetInside : s.fsm.transferring → s.offset.toNat % 128 = 0 ∧ s.offset.toNat + 128 ≤ s.imgSize.toNat
  /-- R223, second clause. -/
  offsetAtEnd : s.fsm.finalizing → s.offset = s.imgSize
  /-- The chunk, sealed (R109, R155). -/
  chunkSealed : s.fsm.loaded → crc8 s.chunk.toList = 0x00#8
  /-- An error exactly in `FAIL` (R221, R260), with operands of R261. -/
  failed : if s.fsm = .fail then goodDiag s.err s.errInfo s.errBus = true
    else s.err = .none ∧ s.errInfo = 0#8 ∧ s.errBus = false
  /-- Exit code 1 exactly in `FAIL` (R56). -/
  exitFail : s.exitCode = true ↔ s.fsm = .fail
  /-- `done_seen` is written by `FINAL_READ` only (R55). -/
  doneLate : s.doneSeen = true → s.fsm = .resetWrite ∨ s.fsm = .resetDelay ∨ s.fsm = .complete ∨ s.fsm = .fail
  /-- Every output event is one the spec has the block emit (R182 to R184). -/
  outGood : ∀ e ∈ s.out, e.toInstr.wf = true
  /-- One diagnostic in `FAIL`, and none elsewhere (R184, R262). -/
  diagOnce : s.out.countP isDiag = if s.fsm = .fail then 1 else 0

/-! ## The history on the ports -/

/-- Is the event the issue of the transport request with descriptor `desc`? -/
def Event.issues (desc : BitVec 9) : Event → Bool
  | .issue (.bus _ d _) => d == desc
  | _ => false

/-- How many transport requests with descriptor `desc` the run has issued. -/
def State.issues (s : State) (desc : BitVec 9) : Nat := s.trace.countP (Event.issues desc)

/-- 1 while the state's transport request waits for its answer. -/
def State.waiting (s : State) : Nat := if s.outstanding = none then 0 else 1

/-- What a port request of the block looks like: to `DEV_ADDR`, with one of the five descriptors and a frame of the length it
says (R81, R104, R105), an image read of 128 bytes (R113), or a delay. -/
def PortRequest.lawful : PortRequest → Prop
  | .bus addr desc frame =>
    addr = Config.devAddr ∧
      ((desc = descIdRead ∨ desc = descStatusRead) ∧ frame = [] ∨
        desc = descUnlockWrite ∧ frame.length = 13 ∨
        desc = descChunkWrite ∧ frame.length = 129 ∨
        desc = descResetWrite ∧ frame = [statusEnc .reset])
  | .img _ n => n = 128
  | .tmr _ => True

/-- The request without an answer after the events, if requests and answers alternate; `none` if they do not (R86). -/
def inFlightAfter : Option (Option PortRequest) → List Event → Option (Option PortRequest)
  | p, [] => p
  | some none, .issue r :: rest => inFlightAfter (some (some r)) rest
  | some (some _), .answer _ :: rest => inFlightAfter (some none) rest
  | p, .out _ :: rest => inFlightAfter p rest
  | _, _ => none

/-- The exact counts of identity reads, unlock writes, chunk writes and reset writes in a run (R224, R226, R227), by state;
`w` is 1 while the state's own request waits. In `FAIL` the counts are bounded by the order of the device writes. -/
def CountsFit (s : State) : Prop :=
  let ids := s.issues descIdRead
  let unlocks := s.issues descUnlockWrite
  let chunks := s.issues descChunkWrite
  let resets := s.issues descResetWrite
  let w := s.waiting
  let sent := s.offset.toNat / 128
  let all := s.imgSize.toNat / 128
  match s.fsm with
  | .idle | .validate => ids = 0 ∧ unlocks = 0 ∧ chunks = 0 ∧ resets = 0
  | .idRead => ids = w ∧ unlocks = 0 ∧ chunks = 0 ∧ resets = 0
  | .gate | .unlockBuild | .upToDate => ids = 1 ∧ unlocks = 0 ∧ chunks = 0 ∧ resets = 0
  | .unlockWrite => ids = 1 ∧ unlocks = w ∧ chunks = 0 ∧ resets = 0
  | .unlockSettle | .unlockStatus => ids = 1 ∧ unlocks = 1 ∧ chunks = 0 ∧ resets = 0
  | .chunkRead => ids = 1 ∧ unlocks = 1 ∧ chunks = sent ∧ resets = 0
  | .chunkWrite => ids = 1 ∧ unlocks = 1 ∧ chunks = sent + w ∧ resets = 0
  | .chunkSettle | .pollRead | .pollDelay | .advance => ids = 1 ∧ unlocks = 1 ∧ chunks = sent + 1 ∧ resets = 0
  | .finalRead => ids = 1 ∧ unlocks = 1 ∧ chunks = all ∧ resets = 0
  | .resetWrite => ids = 1 ∧ unlocks = 1 ∧ chunks = all ∧ resets = w
  | .resetDelay | .complete => ids = 1 ∧ unlocks = 1 ∧ chunks = all ∧ resets = 1
  | .fail =>
    ids ≤ 1 ∧ unlocks ≤ ids ∧ chunks ≤ all ∧ resets ≤ 1 ∧ (0 < chunks → unlocks = 1) ∧ (resets = 1 → chunks = all) ∧
      (s.err = .invalidImage → ids = 0) ∧ (s.err = .unsupportedDevice → unlocks = 0)

/-- The payload bytes of the chunk writes issued so far, in order (R76). -/
def payloadSent : List Event → List Byte
  | [] => []
  | .issue (.bus _ desc frame) :: rest =>
    (if desc = descChunkWrite then frame.take 128 else []) ++ payloadSent rest
  | .issue (.img _ _) :: rest => payloadSent rest
  | .issue (.tmr _) :: rest => payloadSent rest
  | .answer _ :: rest => payloadSent rest
  | .out _ :: rest => payloadSent rest

/-- What a run has sent is the image's payload from offset 0 (R72, R76, R224), the image being stable (R297). -/
structure PayloadInv (s : State) : Prop where
  /-- R297: the image store changes nothing. -/
  stable : ∀ n, (s.env.input n).imgSet = []
  /-- The bytes sent are the image's first bytes. -/
  isImage : payloadSent s.trace = s.image.readRun 0 (payloadSent s.trace).length
  /-- The chunk about to be written is the image's next piece. -/
  nextPiece : s.fsm = .chunkWrite → s.chunk.toList.take 128 = s.image.readRun s.offset.toNat 128
  /-- How many bytes were sent, by state. -/
  sentSoFar : match s.fsm with
    | .chunkRead => (payloadSent s.trace).length = s.offset.toNat
    | .chunkWrite => (payloadSent s.trace).length = s.offset.toNat + 128 * s.waiting
    | .chunkSettle | .pollRead | .pollDelay | .advance => (payloadSent s.trace).length = s.offset.toNat + 128
    | .finalRead | .resetWrite | .resetDelay | .complete => (payloadSent s.trace).length = s.imgSize.toNat
    | .fail => True
    | _ => payloadSent s.trace = []

/-! ## The protocol on the ports -/

/-- Where a run stands in the protocol, as its port events show it (R86, R226, R298 to R303). -/
inductive Proto where
  | start | idAsked | identified | unlockSent | unlockTaken | settling | settled | unlockAsked | ready | reading
  | loaded (payload : List Byte)
  | chunkSent | chunkTaken | chunkSettling | pollReady | polled | mustWait | pollWaiting | accepted | finalAsked
  | finalised | resetSent | resetTaken | leaving | left | dead
  deriving DecidableEq, Repr

/-- After a status answer, by its decoded value: `dead` where the run must fail. -/
def Proto.onPoll (b : Byte) : Proto :=
  match decodeStatus b with
  | .code .wait => .mustWait
  | .code .inProc => .accepted
  | .code .done => .accepted
  | _ => .dead

/-- After an answer: `good` on a transport `ok`, `dead` on `fail`. -/
def Proto.onAnswer (good : List Byte → Proto) : Reply → Option Proto
  | .ok bytes => some (good bytes)
  | .fail => some .dead
  | _ => none

/-- After the issue of a transport request with descriptor `desc`, which must be `want`. -/
def Proto.onIssue (want desc : BitVec 9) (p : Proto) : Option Proto := if desc = want then some p else none

/-- The protocol, event by event: which event may follow where. -/
def Proto.next : Proto → Event → Option Proto
  | p, .out _ => some p
  | .start, .issue (.bus _ d _) => onIssue descIdRead d .idAsked
  | .idAsked, .answer a => onAnswer (fun _ => .identified) a
  | .identified, .issue (.bus _ d _) => onIssue descUnlockWrite d .unlockSent
  | .unlockSent, .answer a => onAnswer (fun _ => .unlockTaken) a
  | .unlockTaken, .issue (.tmr .unlockSettle) => some .settling
  | .settling, .answer .timer => some .settled
  | .settled, .issue (.bus _ d _) => onIssue descStatusRead d .unlockAsked
  | .unlockAsked, .answer a =>
    onAnswer (fun bs => if decodeStatus (statusByte bs) = .code .unlocked then .ready else .dead) a
  | .ready, .issue (.img _ _) => some .reading
  | .reading, .answer (.image d) => some (if d.length = 128 then .loaded d else .dead)
  | .loaded d, .issue (.bus _ desc frame) =>
    if frame = d ++ [crc8 d] then onIssue descChunkWrite desc .chunkSent else none
  | .chunkSent, .answer a => onAnswer (fun _ => .chunkTaken) a
  | .chunkTaken, .issue (.tmr .chunkSettle) => some .chunkSettling
  | .chunkSettling, .answer .timer => some .pollReady
  | .pollReady, .issue (.bus _ d _) => onIssue descStatusRead d .polled
  | .polled, .answer a => onAnswer (fun bs => onPoll (statusByte bs)) a
  | .mustWait, .issue (.tmr .poll) => some .pollWaiting
  | .pollWaiting, .answer .timer => some .pollReady
  | .accepted, .issue (.img _ _) => some .reading
  | .accepted, .issue (.bus _ d _) => onIssue descStatusRead d .finalAsked
  | .finalAsked, .answer a => onAnswer (fun _ => .finalised) a
  | .finalised, .issue (.bus _ d _) => onIssue descResetWrite d .resetSent
  | .resetSent, .answer a => onAnswer (fun _ => .resetTaken) a
  | .resetTaken, .issue (.tmr .resetExit) => some .leaving
  | .leaving, .answer .timer => some .left
  | _, _ => none

/-- The protocol over a history; `none` where an event may not follow. -/
def Proto.run : Proto → List Event → Option Proto
  | p, [] => some p
  | p, e :: rest =>
    match p.next e with
    | none => none
    | some q => q.run rest

/-- Where in the protocol a state of the sequencer stands; `w` says that its transport request waits. -/
def Proto.fits (p : Proto) (s : State) : Prop :=
  let w := s.outstanding.isSome
  match s.fsm with
  | .idle | .validate => p = .start
  | .idRead => p = if w then .idAsked else .start
  | .gate | .unlockBuild | .upToDate => p = .identified
  | .unlockWrite => p = if w then .unlockSent else .identified
  | .unlockSettle => p = .unlockTaken
  | .unlockStatus => p = if w then .unlockAsked else .settled
  | .chunkRead => p = .ready ∨ p = .accepted
  | .chunkWrite =>
    if w then p = .chunkSent else p = .loaded (s.chunk.toList.take 128) ∧
      s.chunk.toList = s.chunk.toList.take 128 ++ [crc8 (s.chunk.toList.take 128)]
  | .chunkSettle => p = .chunkTaken
  | .pollRead => p = if w then .polled else .pollReady
  | .pollDelay => p = .mustWait
  | .advance => p = .accepted
  | .finalRead => p = if w then .finalAsked else .accepted
  | .resetWrite => p = if w then .resetSent else .finalised
  | .resetDelay => p = .resetTaken
  | .complete => p = .left
  | .fail => True

/-- The history of the run follows the protocol, and the sequencer stands where it leads. -/
def ProtocolInv (s : State) : Prop := ∃ p, Proto.run .start s.trace = some p ∧ p.fits s

/-! ## What the block's behaviour depends on -/

/-- The two states agree on everything but the registers that hold no value in this state of the sequencer (R60, R223 third
clause): the footer registers before `CTL.START`, `dev_rev` and `idblk` before `ID_READ`, `ubuf` before `UNLOCK_BUILD`,
`offset` before `UNLOCK_STATUS`, `chunk` before `CHUNK_READ`; `st`, which no rule reads; and in a terminal state all
of these. -/
def AgreeOnWritten (s t : State) : Prop :=
  t = { s with
    imgSize := t.imgSize, imgRev := t.imgRev, imgMagic := t.imgMagic, devRev := t.devRev, idblk := t.idblk, ubuf := t.ubuf,
    offset := t.offset, chunk := t.chunk, st := t.st } ∧
  (s.fsm ≠ .idle → s.fsm.terminal = false → t.imgSize = s.imgSize ∧ t.imgRev = s.imgRev ∧ t.imgMagic = s.imgMagic) ∧
  (s.fsm.identified → s.fsm.terminal = false → t.devRev = s.devRev) ∧
  (s.fsm.built → s.fsm.terminal = false → t.ubuf = s.ubuf) ∧
  (s.fsm.transferring → t.offset = s.offset) ∧
  (s.fsm.transferring → s.fsm.loaded → t.chunk = s.chunk)

/-! ## Ends of a run -/

/-- In this step the transport does not answer. -/
def Input.late (i : Input) : Bool := i.bus.isNone

/-- Does the transport answer with a byte that decodes to `WAIT` in this step? -/
def Input.saysWait (i : Input) : Bool :=
  match i.bus with
  | some (.ok bytes) => decide (decodeStatus bytes[0] = .code .wait)
  | _ => false

/-- How many `WAIT` answers a run of at most 1024 chunks can take among the inputs: no more than they hold, and no more than
`POLL_LIMIT` allows, if it is `some m` (R305, R308). -/
def waitBound (limit : Option Nat) (inputs : List Input) : Nat :=
  match limit with
  | none => inputs.countP Input.saysWait
  | some m => min (inputs.countP Input.saysWait) (1024 * m)

/-- The steps of a run: eight up to the unlock, the start among them, five a chunk for at most 1024 chunks, three at the end, two
for each `WAIT`, and one for each step in which the transport does not answer (R227, R308). -/
def runBound (limit : Option Nat) (inputs : List Input) : Nat :=
  8 + 5 * 1024 + 3 + 2 * waitBound limit inputs + inputs.countP Input.late

end Sys2Proof.Machine
end

