-- ==== Sys2Proof/Certificates/Slice0/Obligations.lean ====
section
/-! DEFINITION. The statements for the provers. Each docstring names the rule of spec/ its statement formalises; where a clause
is the model's own choice it names the log entry. -/

open Sys2Proof Sys2Proof.Machine

/-! ## The CRC-8 generator -/

/-- R103, R150, R151: `op` = 00 is `CRC.NOP`, which changes nothing; `op` = 01 is `CRC.CLEAR`, which writes 0x00; `din` is ignored. -/
def Obligations.CrcNopAndClear : Prop :=
  (∀ w : BitVec 10,
    (w.extractLsb' 8 2 = 0#2 → decode (.crc w) = .ok (.crcNop (w.extractLsb' 0 8))) ∧
    (w.extractLsb' 8 2 = 1#2 → decode (.crc w) = .ok (.crcClear (w.extractLsb' 0 8)))) ∧
  ∀ (din : Byte) (s : State),
    exec (.crcNop din) s = .next s ∧ exec (.crcClear din) s = .next { s with crc := 0x00#8 }

/-- R152: `op` = 10 is `CRC.UPDATE din`, with `din` in bits 7:0; it writes `T[crc ^ din]`, which is `step(crc, din)`, and nothing
else. -/
def Obligations.CrcUpdateFoldsOneByte : Prop :=
  (∀ w : BitVec 10, w.extractLsb' 8 2 = 2#2 → decode (.crc w) = .ok (.crcUpdate (w.extractLsb' 0 8))) ∧
  ∀ (din : Byte) (s : State),
    exec (.crcUpdate din) s = .next { s with crc := crcT (s.crc ^^^ din) } ∧
      exec (.crcUpdate din) s = .next { s with crc := crcByteStep s.crc din }

/-- R146, R148: the table is the bitwise step from 0, and the two forms agree everywhere. -/
def Obligations.CrcTableIsBitwiseDivision : Prop :=
  (∀ i : Byte, crcT i = crcByteStep 0x00#8 i) ∧ ∀ c b : Byte, crcByteStep c b = crcT (c ^^^ b)

/-- R149: a clear, then updates with any number of `CRC.NOP` between them, leave `crc8` of the bytes in `crc`, and nothing
else changes. -/
def Obligations.GeneratorComputesCrc8 : Prop :=
  ∀ (d : Byte) (ops : List Instr) (s : State),
    (∀ i ∈ ops, ∃ x, i = .crcUpdate x ∨ i = .crcNop x) →
    runOps (.crcClear d :: ops) s = .next { s with
      crc := crc8 (ops.filterMap fun i => match i with | .crcUpdate x => some x | _ => none) }

/-- R155: a byte sequence followed by its CRC has CRC 0; a 129-byte chunk has CRC 0 exactly when byte 128 is the CRC of the
bytes before it. -/
def Obligations.AppendedCrcCancels : Prop :=
  (∀ B : List Byte, crc8 (B ++ [crc8 B]) = 0x00#8) ∧
    ∀ chunk : Vector Byte 129, crc8 chunk.toList = 0x00#8 ↔ chunk[128] = crc8 (chunk.toList.take 128)

/-- R156: zero bytes have CRC 0, and the CRC is linear over bytewise exclusive or. -/
def Obligations.CrcIsLinear : Prop :=
  crc8 [] = 0x00#8 ∧ (∀ n : Nat, crc8 (List.replicate n 0x00#8) = 0x00#8) ∧
    ∀ A B : List Byte, A.length = B.length → crc8 (List.zipWith (· ^^^ ·) A B) = crc8 A ^^^ crc8 B

/-! ## Encodings -/

/-- Decoding an encoded operation gives it back, for every operation and every value of its operands. The layout of `OUT_EVT` above
its tag is the model's choice (log entry 8). -/
def Obligations.DecodeInvertsEncode : Prop := ∀ i : Instr, decode (encode i) = .ok i

/-- A word that decodes is the encoding of what it decodes to: no bit of a word is dropped, on any port. The layout of `OUT_EVT`
above its tag is the model's choice (log entry 8). -/
def Obligations.EncodeInvertsDecode : Prop := ∀ (w : PortWord) (i : Instr), decode w = .ok i → encode i = w

/-- Words written out in 95_test_vectors.md decode to the operations they stand for there. -/
def Obligations.SpecWordsDecode : Prop :=
  decode (.crc 0x000#10) = .ok (.crcNop 0x00#8) ∧ decode (.crc 0x100#10) = .ok (.crcClear 0x00#8) ∧
  decode (.crc 0x234#10) = .ok (.crcUpdate 0x34#8) ∧ decode (.bus 0x020#9) = .ok .busIdRead ∧
  decode (.bus 0x10D#9) = .ok .busUnlockWrite ∧ decode (.bus 0x001#9) = .ok .busStatusRead ∧
  decode (.bus 0x181#9) = .ok .busChunkWrite ∧ decode (.bus 0x101#9) = .ok .busResetWrite ∧
  decode (.img 0x8000000080#40) = .ok (.imgRead 0x80#32) ∧ decode (.tmr 0#2) = .ok .tmrUnlockSettle ∧
  decode (.tmr 1#2) = .ok .tmrChunkSettle ∧ decode (.tmr 2#2) = .ok .tmrPoll ∧ decode (.tmr 3#2) = .ok .tmrResetExit ∧
  decode (.ctl 1#2) = .ok .ctlStart ∧ decode (.ctl 2#2) = .ok (.ctlReset false) ∧
  decode (.ctl 3#2) = .ok (.ctlReset true)

/-- R117, R118, R154: `CRC_CMD` with `op` = 11, the other `BUS_DESC` values, `IMG_REQ` with `n` other than 128, `OUT_EVT` tag 11 and
`OUT.INFO` kind 3 are no operation's word, so no step of the sequencer issues one; a step that is presented one refuses
it. Three things here are the model's choice: that a word is presented to a unit (log entry 6); the place of an `OUT_EVT`
record's fields above the tag, of `kind` in bits 3:2 among them (log entry 8); and that a word with a bit set above its
event's fields is no operation's word and is refused (log entry 8). -/
def Obligations.UnusedWordsAreRefused : Prop :=
  (∀ w : BitVec 10, w.extractLsb' 8 2 = 3#2 → decode (.crc w) = .error .reservedCrcOp) ∧
  (∀ w : BitVec 9, w ∉ [0x020#9, 0x001#9, 0x10D#9, 0x181#9, 0x101#9] → decode (.bus w) = .error .unusedBusDesc) ∧
  (∀ w : BitVec 40, w.extractLsb' 32 8 ≠ 128#8 → decode (.img w) = .error .unusedImgCount) ∧
  (∀ w : BitVec 66, w.extractLsb' 0 2 = 3#2 → decode (.out w) = .error .unusedOutTag) ∧
  (∀ w : BitVec 66, w.extractLsb' 0 2 = 1#2 → w.extractLsb' 2 2 = 3#2 → decode (.out w) = .error .unusedInfoKind) ∧
  (∀ w e, decode w = .error e → ∀ i, encode i ≠ w) ∧
  ∀ (s : State) w e, s.port.rst = false → s.port.unit = some w → decode w = .error e → e ≠ .noCommand →
    step s = .refused (.encoding e)

/-! ## The operations -/

/-- R58, R171: an operation of the block, the host's two commands apart, changes no register of the sequencer, no flag, no
image byte and no input; only the `CRC` operations change `crc`, and only the `OUT` operations change the output log. -/
def Obligations.OperationsTouchOnlyTheirOwn : Prop :=
  ∀ (i : Instr) (s t : State), i ≠ .ctlStart → (∀ b, i ≠ .ctlReset b) → exec i s = .next t →
    t = { s with crc := t.crc, out := t.out, outstanding := t.outstanding, reply := t.reply, trace := t.trace } ∧
    ((∀ d, i ≠ .crcClear d ∧ i ≠ .crcUpdate d) → t.crc = s.crc) ∧
    ((∀ e : OutEvent, i ≠ e.toInstr) → t.out = s.out)

/-- 41_transactions.md sections 1 and 2: a read whose request may stand on the bus asks for 32 bytes or for 1 byte (R172, R174); it
waits until the transport answers (R171), and then completes with `fail`, or with `ok` and exactly as many bytes (R45). The
model's choices here: a step in which the request waits (log entry 10), the answer left in `State.reply` for the rule of the
issuing state (log entry 14), and the bytes taken from 32 drawn ones (log entry 15). -/
def Obligations.BusReadsReturnTheAnswer : Prop :=
  decode (.bus 0x020#9) = .ok .busIdRead ∧ decode (.bus 0x001#9) = .ok .busStatusRead ∧
  ∀ s : State,
    (s.ready (.bus Config.devAddr 0x020#9 []) → exec .busIdRead s = .next
      (match s.port.bus with
        | none => s.issued (.bus Config.devAddr 0x020#9 [])
        | some .fail => (s.issued (.bus Config.devAddr 0x020#9 [])).answered .fail
        | some (.ok bytes) => (s.issued (.bus Config.devAddr 0x020#9 [])).answered (.ok bytes.toList))) ∧
    (s.ready (.bus Config.devAddr 0x001#9 []) → exec .busStatusRead s = .next
      (match s.port.bus with
        | none => s.issued (.bus Config.devAddr 0x001#9 [])
        | some .fail => (s.issued (.bus Config.devAddr 0x001#9 [])).answered .fail
        | some (.ok bytes) => (s.issued (.bus Config.devAddr 0x001#9 [])).answered (.ok [bytes[0]])))

/-- 41_transactions.md sections 1 and 2: a write sends the 13 bytes of `ubuf`, the 129 bytes of `chunk`, or the one byte
`STATUS_ENC(RESET)`, as one transaction (R173, R175, R176); it waits until the transport answers (R171), and then completes
with `ok` or `fail` (R45). The model's choices here are those of the reads (log entries 10, 14 and 15). -/
def Obligations.BusWritesSendTheFrame : Prop :=
  decode (.bus 0x10D#9) = .ok .busUnlockWrite ∧ decode (.bus 0x181#9) = .ok .busChunkWrite ∧
  decode (.bus 0x101#9) = .ok .busResetWrite ∧
  ∀ s : State,
    (s.ready (.bus Config.devAddr 0x10D#9 s.ubuf.toList) → exec .busUnlockWrite s = .next
      (match s.port.bus with
        | none => s.issued (.bus Config.devAddr 0x10D#9 s.ubuf.toList)
        | some .fail => (s.issued (.bus Config.devAddr 0x10D#9 s.ubuf.toList)).answered .fail
        | some (.ok _) => (s.issued (.bus Config.devAddr 0x10D#9 s.ubuf.toList)).answered (.ok []))) ∧
    (s.ready (.bus Config.devAddr 0x181#9 s.chunk.toList) → exec .busChunkWrite s = .next
      (match s.port.bus with
        | none => s.issued (.bus Config.devAddr 0x181#9 s.chunk.toList)
        | some .fail => (s.issued (.bus Config.devAddr 0x181#9 s.chunk.toList)).answered .fail
        | some (.ok _) => (s.issued (.bus Config.devAddr 0x181#9 s.chunk.toList)).answered (.ok []))) ∧
    (s.ready (.bus Config.devAddr 0x101#9 [statusEnc .reset]) → exec .busResetWrite s = .next
      (match s.port.bus with
        | none => s.issued (.bus Config.devAddr 0x101#9 [statusEnc .reset])
        | some .fail => (s.issued (.bus Config.devAddr 0x101#9 [statusEnc .reset])).answered .fail
        | some (.ok _) => (s.issued (.bus Config.devAddr 0x101#9 [statusEnc .reset])).answered (.ok [])))

/-- R171: while a transport request is not answered, `fsm` and every other register stay as they are; the request is issued once and
stays on its port, and no other is issued. That this takes a step, which answers a next state while the request waits, is the
model's choice (log entry 10): the spec's step ends only at the answer. So are the history written in `trace` (log entry 13)
and the image store's changes, which take effect at the end of the step (log entry 5). -/
def Obligations.UnansweredRequestWaits : Prop :=
  ∀ (s : State) (r : PortRequest), s.quiet → s.transportRequest = some r → s.ready r → s.port.bus = none →
    step s = .next { s with
      outstanding := some r
      reply := none
      trace := if s.outstanding = none then s.trace ++ [.issue r] else s.trace
      image := s.image.update s.port.imgSet
      env := s.env.next }

/-- R298 with log entry 11 (the model's own stop): a port request presented while another one waits for its answer stops the
machine. -/
def Obligations.SecondRequestStops : Prop :=
  ∀ (s : State) (q : PortRequest), s.outstanding = some q →
    (q ≠ .bus Config.devAddr descIdRead [] → exec .busIdRead s = .fault .requestInFlight) ∧
    (q ≠ .bus Config.devAddr descUnlockWrite s.ubuf.toList → exec .busUnlockWrite s = .fault .requestInFlight) ∧
    (q ≠ .bus Config.devAddr descStatusRead [] → exec .busStatusRead s = .fault .requestInFlight) ∧
    (q ≠ .bus Config.devAddr descChunkWrite s.chunk.toList → exec .busChunkWrite s = .fault .requestInFlight) ∧
    (q ≠ .bus Config.devAddr descResetWrite [statusEnc .reset] → exec .busResetWrite s = .fault .requestInFlight) ∧
    (∀ off, q ≠ .img off 128 → exec (.imgRead off) s = .fault .requestInFlight) ∧
    (q ≠ .tmr .unlockSettle → exec .tmrUnlockSettle s = .fault .requestInFlight) ∧
    (q ≠ .tmr .chunkSettle → exec .tmrChunkSettle s = .fault .requestInFlight) ∧
    (q ≠ .tmr .poll → exec .tmrPoll s = .fault .requestInFlight) ∧
    (q ≠ .tmr .resetExit → exec .tmrResetExit s = .fault .requestInFlight)

/-- R113, R177: `IMG.READ off`, with `n` = 128 in bits 39:32 and `off` in bits 31:0, asks for 128 bytes at `off`; the image port
always answers, with at most 128 bytes. -/
def Obligations.ImageReadAnswers : Prop :=
  ∀ (off : U32) (s : State),
    decode (.img (128#8 ++ off)) = .ok (.imgRead off) ∧ (s.imageBytes off 128).length ≤ 128 ∧
    (s.ready (.img off 128) → exec (.imgRead off) s = .next ((s.issued (.img off 128)).answered (.image (s.imageBytes off 128))))

/-- R46: an image read of `n` bytes delivers between 0 and `n` bytes, byte `i` being the file's byte at `off + i`. The third clause
is the model's choice (log entry 5), R46 saying only that a read may be short: without a read error it stops only at an
offset where the file has no byte. -/
def Obligations.ImageReadDeliversTheFile : Prop :=
  ∀ (s : State) (off : U32) (n : Nat),
    (s.imageBytes off n).length ≤ n ∧
    (∀ i (h : i < (s.imageBytes off n).length), s.image.get? (off.toNat + i) = some (s.imageBytes off n)[i]) ∧
    (s.port.imgCut = none → (s.imageBytes off n).length < n →
      s.image.get? (off.toNat + (s.imageBytes off n).length) = none)

/-- R114, R178 to R181: a delay is one request, which the timer always answers. -/
def Obligations.DelaysComplete : Prop :=
  decode (.tmr 0#2) = .ok .tmrUnlockSettle ∧ decode (.tmr 1#2) = .ok .tmrChunkSettle ∧
  decode (.tmr 2#2) = .ok .tmrPoll ∧ decode (.tmr 3#2) = .ok .tmrResetExit ∧
  ∀ s : State,
    (s.ready (.tmr .unlockSettle) →
      exec .tmrUnlockSettle s = .next ((s.issued (.tmr .unlockSettle)).answered .timer)) ∧
    (s.ready (.tmr .chunkSettle) →
      exec .tmrChunkSettle s = .next ((s.issued (.tmr .chunkSettle)).answered .timer)) ∧
    (s.ready (.tmr .poll) → exec .tmrPoll s = .next ((s.issued (.tmr .poll)).answered .timer)) ∧
    (s.ready (.tmr .resetExit) → exec .tmrResetExit s = .next ((s.issued (.tmr .resetExit)).answered .timer))

/-- R182, R183, R184: an output operation appends its event to the output log, and changes nothing else (log entry 13: the
history records it too). -/
def Obligations.OutputsAppendToTheLog : Prop :=
  ∀ s : State,
    (∀ remaining total, exec (.outProgress remaining total) s = .next { s with
      out := s.out ++ [.progress remaining total], trace := s.trace ++ [.out (.progress remaining total)] }) ∧
    (∀ kind, exec (.outInfo kind) s = .next { s with
      out := s.out ++ [.info kind], trace := s.trace ++ [.out (.info kind)] }) ∧
    ∀ code info bus, exec (.outDiag code info bus) s = .next { s with
      out := s.out ++ [.diag code info bus], trace := s.trace ++ [.out (.diag code info bus)] }

/-- R185: `CTL.START` in `IDLE` latches the footer and goes to `VALIDATE`; elsewhere it has no effect. -/
def Obligations.StartLatchesTheFooter : Prop :=
  decode (.ctl 1#2) = .ok .ctlStart ∧
  ∀ s : State,
    (s.fsm = .idle → exec .ctlStart s = .next { s with
      imgSize := s.port.footer.binSize, imgRev := s.port.footer.revision, imgMagic := s.port.footer.magic,
      fsm := .validate }) ∧
    (s.fsm ≠ .idle → exec .ctlStart s = .next s)

/-- R291: `CTL.RESET`, whatever `start` is and in every state, gives every register R61 names a value for that value. The zeros
of the registers R61 names no value for, and the image and the input ports, which stay, are the model's choice (log
entries 3 and 13). -/
def Obligations.ResetClearsTheBlock : Prop :=
  ∀ (start : Bool) (s : State), ∃ t, exec (.ctlReset start) s = .next t ∧
    t.fsm = .idle ∧ t.crc = 0x00#8 ∧ t.waitCount = 0 ∧ t.err = .none ∧ t.errInfo = 0#8 ∧ t.errBus = false ∧
    t.doneSeen = false ∧ t.exitCode = false ∧ t.out = [] ∧ t.outstanding = none ∧ t.seqStatus = 0#32 ∧
    t.imgSize = 0#32 ∧ t.imgRev = 0#8 ∧ t.imgMagic = Vector.replicate 11 0#8 ∧ t.devRev = 0#16 ∧
    t.idblk = Vector.replicate 32 0#8 ∧ t.offset = 0#32 ∧ t.chunk = Vector.replicate 129 0#8 ∧
    t.ubuf = Vector.replicate 13 0#8 ∧ t.st = 0#8 ∧ t.trace = [] ∧ t.reply = none ∧ t.image = s.image ∧ t.env = s.env

/-- R61: the values the spec gives the state after reset, and `SEQ_STATUS` (R57). -/
def Obligations.ResetStateHasTheSpecsValues : Prop :=
  State.reset.fsm = .idle ∧ State.reset.crc = 0x00#8 ∧ State.reset.waitCount = 0 ∧ State.reset.err = .none ∧
  State.reset.errInfo = 0#8 ∧ State.reset.errBus = false ∧ State.reset.doneSeen = false ∧
  State.reset.exitCode = false ∧ State.reset.out = [] ∧ State.reset.outstanding = none ∧
  State.reset.seqStatus = 0x00000000#32

/-! ## The step -/

/-- R267, R292: with `rst` high the reset wins over every other thing the step could do; an outstanding request is abandoned
and an answer in this step is discarded. -/
def Obligations.ResetWinsOverTheStep : Prop :=
  ∀ s : State, s.port.rst = true → step s = .next { State.reset with
    image := s.image.update s.port.imgSet, env := s.env.next }

/-- A step that is presented a word runs the operation it decodes to, and moves the input ports on (log entry 6). -/
def Obligations.StepRunsThePresentedWord : Prop :=
  ∀ (s : State) (w : PortWord) (i : Instr), s.port.rst = false → s.port.unit = some w → decode w = .ok i →
    step s = andThen (exec i s) fun t => .next t.endStep

/-- A table word placed by `withFetchWord` is run by the very next step, whatever the rest of the state is; `CTL.START` is run in
`IDLE` (log entries 6 and 7). -/
def Obligations.StepRunsTheFetchedWord : Prop :=
  ∀ (s : State) (nbits w : Nat) (i : Instr), decodeTableWord nbits w = some i → (i = .ctlStart → s.fsm = .idle) →
    step (s.withFetchWord nbits w) = andThen (exec i (s.withFetchWord nbits w)) fun t => .next t.endStep

/-- R185, R201: a step with nothing presented runs `CTL.START` where the host starts the block in `IDLE`, else the operation the
state issues followed by the state's rule, else the rule alone; then the input ports move on. -/
def Obligations.StepRunsTheStatesOperation : Prop :=
  ∀ s : State, s.quiet →
    (s.fsm = .idle → s.port.start = true → step s = andThen (exec .ctlStart s) fun t => .next t.endStep) ∧
    (s.fsm ≠ .idle ∨ s.port.start = false → ∀ i, stateOp s = some i →
      step s = andThen (andThen (exec i s) (stateRule s.fsm)) fun t => .next t.endStep) ∧
    (s.fsm ≠ .idle ∨ s.port.start = false → stateOp s = none →
      step s = andThen (stateRule s.fsm s) fun t => .next t.endStep)

/-- R186: which bus, image and timer operation each state issues, and `OUT.PROGRESS` by `ADVANCE` with the operands of R215. -/
def Obligations.StatesIssueTheirOperations : Prop :=
  ∀ s : State,
    (stateOp s = some .busIdRead ↔ s.fsm = .idRead) ∧
    (stateOp s = some .busUnlockWrite ↔ s.fsm = .unlockWrite) ∧
    (stateOp s = some .busStatusRead ↔ s.fsm = .unlockStatus ∨ s.fsm = .pollRead ∨ s.fsm = .finalRead) ∧
    (stateOp s = some .busChunkWrite ↔ s.fsm = .chunkWrite) ∧
    (stateOp s = some .busResetWrite ↔ s.fsm = .resetWrite) ∧
    (∀ off, stateOp s = some (.imgRead off) ↔ s.fsm = .chunkRead ∧ off = s.offset) ∧
    (stateOp s = some .tmrUnlockSettle ↔ s.fsm = .unlockSettle) ∧
    (stateOp s = some .tmrChunkSettle ↔ s.fsm = .chunkSettle) ∧
    (stateOp s = some .tmrPoll ↔ s.fsm = .pollDelay) ∧
    (stateOp s = some .tmrResetExit ↔ s.fsm = .resetDelay) ∧
    (∀ remaining total, stateOp s = some (.outProgress remaining total) ↔
      s.fsm = .advance ∧ remaining = s.imgSize - (s.offset + 128#32) ∧ total = s.imgSize)

/-! ## The sequencer's rules -/

/-- R202, R219 to R221, R228: `IDLE` without a start, and a terminal state whatever `start` is, change nothing and issue nothing.
That this is a step at all is the model's choice (log entry 10). -/
def Obligations.IdleAndTerminalStatesStay : Prop :=
  ∀ s : State, s.quiet → (s.fsm = .idle ∧ s.port.start = false ∨ s.fsm = .complete ∨ s.fsm = .upToDate ∨ s.fsm = .fail) →
    step s = .next { s with reply := none, image := s.image.update s.port.imgSet, env := s.env.next }

/-- R203, R252: `VALIDATE`. -/
def Obligations.ValidateChecksTheImage : Prop :=
  ∀ s : State, s.quiet → s.fsm = .validate →
    step s = .next (State.endStep
      (if s.imgMagic = #v[0x54#8, 0x53#8, 0x5F#8, 0x55#8, 0x43#8, 0x5F#8, 0x52#8, 0x41#8, 0x34#8, 0x4D#8, 0x32#8] ∧
          s.imgSize.toNat ≠ 0 ∧ s.imgSize.toNat ≤ 131072 ∧ s.imgSize.toNat % 128 = 0
        then { s with fsm := .idRead }
        else s.raiseFatal .invalidImage 0#8 false))

/-- R204: `ID_READ`, when the transport answers. -/
def Obligations.IdReadTakesTheRevision : Prop :=
  ∀ (s : State) (a : BusAnswer), s.quiet → s.fsm = .idRead → s.ready (.bus Config.devAddr descIdRead []) →
    s.port.bus = some a →
    step s = .next (State.endStep
      (match a with
        | .fail => ((s.issued (.bus Config.devAddr descIdRead [])).answered .fail).raiseFatal .readFailed 0#8 true
        | .ok bytes => { (s.issued (.bus Config.devAddr descIdRead [])).answered (.ok bytes.toList) with
            idblk := bytes
            devRev := revision Config.revOrder bytes[30] bytes[31]
            fsm := .gate }))

/-- R205, R253, R266: `GATE`. The minimum is tested before equality. -/
def Obligations.GateComparesRevisions : Prop :=
  ∀ s : State, s.quiet → s.fsm = .gate →
    step s = .next (State.endStep
      (if s.devRev.toNat < 7 then s.raiseFatal .unsupportedDevice 0#8 false
        else if s.devRev.toNat = s.imgRev.toNat then
          { s with
            out := s.out ++ [.info .upToDate], trace := s.trace ++ [.out (.info .upToDate)]
            exitCode := false, fsm := .upToDate }
        else { s with fsm := .unlockBuild }))

/-- R107, R206: `UNLOCK_BUILD` writes the sealed 13-byte request, leaves its CRC in `crc`, and changes nothing else. -/
def Obligations.UnlockBuildSealsTheRequest : Prop :=
  ∀ s : State, s.quiet → s.fsm = .unlockBuild →
    ∃ t, step s = .next t ∧ t.fsm = .unlockWrite ∧
      t.ubuf.toList = le32 Config.magicKey ++ le32 Config.flashLoc ++ le32 s.imgSize ++ [t.crc] ∧
      t.crc = crc8 (le32 Config.magicKey ++ le32 Config.flashLoc ++ le32 s.imgSize) ∧
      t = State.endStep { s with crc := t.crc, ubuf := t.ubuf, fsm := .unlockWrite }

/-- R207, R211, R217: the three write states, when the transport answers. -/
def Obligations.WriteStatesGoOnOrFail : Prop :=
  ∀ (s : State) (a : BusAnswer) (r : PortRequest) (f : Fsm), s.quiet →
    (s.fsm = .unlockWrite ∧ f = .unlockSettle ∨ s.fsm = .chunkWrite ∧ f = .chunkSettle ∨
      s.fsm = .resetWrite ∧ f = .resetDelay) →
    s.transportRequest = some r → s.ready r → s.port.bus = some a →
    step s = .next (State.endStep
      (match a with
        | .fail => ((s.issued r).answered .fail).raiseFatal .writeFailed 0#8 true
        | .ok _ => { (s.issued r).answered (.ok []) with fsm := f }))

/-- R208, R212, R214, R218: the four delay states. -/
def Obligations.DelayStatesGoOn : Prop :=
  ∀ s : State, s.quiet →
    (s.fsm = .unlockSettle → s.ready (.tmr .unlockSettle) → step s = .next (State.endStep
      { (s.issued (.tmr .unlockSettle)).answered .timer with fsm := .unlockStatus })) ∧
    (s.fsm = .chunkSettle → s.ready (.tmr .chunkSettle) → step s = .next (State.endStep
      { (s.issued (.tmr .chunkSettle)).answered .timer with fsm := .pollRead })) ∧
    (s.fsm = .pollDelay → s.ready (.tmr .poll) → step s = .next (State.endStep
      { (s.issued (.tmr .poll)).answered .timer with fsm := .pollRead })) ∧
    (s.fsm = .resetDelay → s.ready (.tmr .resetExit) → step s = .next (State.endStep
      { (s.issued (.tmr .resetExit)).answered .timer with exitCode := false, fsm := .complete }))

/-- R209, R254: `UNLOCK_STATUS`, when the transport answers. -/
def Obligations.UnlockStatusAcceptsOnlyUnlocked : Prop :=
  ∀ (s : State) (a : BusAnswer), s.quiet → s.fsm = .unlockStatus → s.ready (.bus Config.devAddr descStatusRead []) →
    s.port.bus = some a →
    step s = .next (State.endStep
      (match a with
        | .fail => ((s.issued (.bus Config.devAddr descStatusRead [])).answered .fail).raiseFatal .unlockRejected 0#8 true
        | .ok bytes =>
          let u := (s.issued (.bus Config.devAddr descStatusRead [])).answered (.ok [bytes[0]])
          if decodeStatus bytes[0] = .code .unlocked then
            { u with st := bytes[0], offset := 0#32, fsm := .chunkRead }
          else State.raiseFatal .unlockRejected bytes[0] false { u with st := bytes[0] }))

/-- R210, R255: `CHUNK_READ`. A short read is fatal; a full one is copied and sealed with its CRC, which stays in `crc`. In a state of
the invariant the read is inside the image, at a multiple of 128. -/
def Obligations.ChunkReadSealsTheChunk : Prop :=
  (∀ s : State, Inv s → s.fsm = .chunkRead → s.offset.toNat % 128 = 0 ∧ s.offset.toNat < s.imgSize.toNat) ∧
  ∀ (s : State) (d : List Byte), s.quiet → s.fsm = .chunkRead → s.ready (.img s.offset 128) →
    s.imageBytes s.offset 128 = d →
    let u := (s.issued (.img s.offset 128)).answered (.image d)
    (d.length < 128 → step s = .next (State.endStep (u.raiseFatal .ioError 0#8 false))) ∧
    (d.length = 128 → ∃ t, step s = .next t ∧ t.chunk.toList = d ++ [crc8 d] ∧
      t = State.endStep { u with crc := crc8 d, chunk := t.chunk, waitCount := 0, fsm := .chunkWrite })

/-- R213, R257 to R259: `POLL_READ`, when the transport answers. The limit is reached by the `WAIT` reply that makes `n` in a row;
its increment of `wait_count` is dropped. -/
def Obligations.PollReadSortsTheStatus : Prop :=
  ∀ (s : State) (a : BusAnswer), s.quiet → s.fsm = .pollRead → s.ready (.bus Config.devAddr descStatusRead []) →
    s.port.bus = some a →
    step s = .next (State.endStep
      (match a with
        | .fail => ((s.issued (.bus Config.devAddr descStatusRead [])).answered .fail).raiseFatal .readFailed 0#8 true
        | .ok bytes =>
          let u := { (s.issued (.bus Config.devAddr descStatusRead [])).answered (.ok [bytes[0]]) with st := bytes[0] }
          if decodeStatus bytes[0] = .code .wait then
            if ∃ n, Config.pollLimit = some n ∧ n ≤ s.waitCount + 1 then u.raiseFatal .pollTimeout bytes[0] false
            else { u with waitCount := s.waitCount + 1, fsm := .pollDelay }
          else if decodeStatus bytes[0] = .code .inProc ∨ decodeStatus bytes[0] = .code .done then
            { u with fsm := .advance }
          else u.raiseFatal .deviceReportedError bytes[0] false))

/-- R215: `ADVANCE`. In a state of the invariant the new offset does not exceed `img_size`. -/
def Obligations.AdvanceCountsTheChunk : Prop :=
  (∀ s : State, Inv s → s.fsm = .advance →
    (s.offset + 128#32).toNat = s.offset.toNat + 128 ∧ (s.offset + 128#32).toNat ≤ s.imgSize.toNat) ∧
  ∀ s : State, s.quiet → s.fsm = .advance →
    step s = .next (State.endStep { s with
      offset := s.offset + 128#32
      out := s.out ++ [.progress (s.imgSize - (s.offset + 128#32)) s.imgSize]
      trace := s.trace ++ [.out (.progress (s.imgSize - (s.offset + 128#32)) s.imgSize)]
      fsm := if s.offset + 128#32 = s.imgSize then .finalRead else .chunkRead })

/-- R216: `FINAL_READ`, when the transport answers. -/
def Obligations.FinalReadReportsDone : Prop :=
  ∀ (s : State) (a : BusAnswer), s.quiet → s.fsm = .finalRead → s.ready (.bus Config.devAddr descStatusRead []) →
    s.port.bus = some a →
    step s = .next (State.endStep
      (match a with
        | .fail => ((s.issued (.bus Config.devAddr descStatusRead [])).answered .fail).raiseFatal .readFailed 0#8 true
        | .ok bytes =>
          let u := (s.issued (.bus Config.devAddr descStatusRead [])).answered (.ok [bytes[0]])
          if decodeStatus bytes[0] = .code .done then
            { u.emit (.info .doneOk) with st := bytes[0], doneSeen := true, fsm := .resetWrite }
          else { u.emit (.info .doneWarn) with st := bytes[0], doneSeen := false, fsm := .resetWrite }))

/-- R222: a step goes to a state of the transition table, or fails with an error of the table, or waits; `IDLE` is left by a start
only; a reset leaves every state for `IDLE`. -/
def Obligations.TransitionsFollowTheTable : Prop :=
  ∀ s t : State, step s = .next t →
    (s.port.rst = true → t.fsm = .idle) ∧
    (s.quiet → t.fsm ∈ s.fsm.successors ∨ t.fsm = .fail ∧ t.err ∈ s.fsm.errors ∨ t.fsm = s.fsm ∧ s.fsm.mayStay) ∧
    (s.quiet → s.fsm = .idle → (t.fsm = .validate ↔ s.port.start = true))

/-- R35 to R42, R52 to R55: in the sequencer's steps each register is written only by the states the spec names. -/
def Obligations.RegistersHaveTheirWriters : Prop :=
  ∀ s t : State, s.quiet → step s = .next t →
    (s.fsm ≠ .idle → t.imgSize = s.imgSize ∧ t.imgRev = s.imgRev ∧ t.imgMagic = s.imgMagic) ∧
    (s.fsm ≠ .idRead → t.devRev = s.devRev ∧ t.idblk = s.idblk) ∧
    (s.fsm ≠ .unlockBuild → t.ubuf = s.ubuf) ∧
    (s.fsm ≠ .unlockStatus → s.fsm ≠ .advance → t.offset = s.offset) ∧
    (s.fsm ≠ .chunkRead → t.chunk = s.chunk) ∧
    (s.fsm ≠ .unlockBuild → s.fsm ≠ .chunkRead → t.crc = s.crc) ∧
    (s.fsm ≠ .unlockStatus → s.fsm ≠ .pollRead → s.fsm ≠ .finalRead → t.st = s.st) ∧
    (s.fsm ≠ .chunkRead → s.fsm ≠ .pollRead → t.waitCount = s.waitCount) ∧
    (s.fsm ≠ .finalRead → t.doneSeen = s.doneSeen) ∧
    (t.fsm ≠ .fail → t.err = s.err ∧ t.errInfo = s.errInfo ∧ t.errBus = s.errBus) ∧
    (t.fsm.terminal = false → t.exitCode = s.exitCode)

/-! ## Errors -/

/-- R262: the error entry writes the error registers, the diagnostic, the exit code and `FAIL`, and nothing else. -/
def Obligations.ErrorEntryWrites : Prop :=
  ∀ (code : ErrCode) (info : Byte) (bus : Bool) (s : State),
    s.raiseFatal code info bus = { s with
      err := code, errInfo := info, errBus := bus, exitCode := true, fsm := .fail
      out := s.out ++ [.diag code info bus], trace := s.trace ++ [.out (.diag code info bus)] }

/-- R262, R263: a step that fails changes no register but the error registers, `exit_code` and `fsm`, and `st` where it read a
status byte, of the states a run reaches; its diagnostic records the error registers. -/
def Obligations.FailureIsPrecise : Prop :=
  ∀ s t : State, Inv s → s.quiet → s.fsm ≠ .fail → step s = .next t → t.fsm = .fail →
    t.crc = s.crc ∧ t.imgSize = s.imgSize ∧ t.imgRev = s.imgRev ∧ t.imgMagic = s.imgMagic ∧ t.devRev = s.devRev ∧
    t.idblk = s.idblk ∧ t.offset = s.offset ∧ t.chunk = s.chunk ∧ t.ubuf = s.ubuf ∧ t.waitCount = s.waitCount ∧
    t.doneSeen = s.doneSeen ∧ t.exitCode = true ∧ t.out = s.out ++ [.diag t.err t.errInfo t.errBus] ∧
    t.outstanding = none ∧ goodDiag t.err t.errInfo t.errBus = true ∧
    (t.st = s.st ∨ (s.fsm = .unlockStatus ∨ s.fsm = .pollRead) ∧ t.errInfo = t.st)

/-! ## Status word and operands -/

/-- R32, R57: the fields of `SEQ_STATUS`, and the numbers of the states. That bit 7 is `done_seen` in every state, `RESET_WRITE`
and `RESET_DELAY` among them, is R57's reading against the closing sentence of 95_test_vectors.md section 6.7, which the
model follows by inference (log entry 18, DEDUCED). -/
def Obligations.SeqStatusFields : Prop :=
  (∀ s : State,
    s.seqStatus.extractLsb' 0 5 = s.fsm.toBits ∧
    s.seqStatus.getLsbD 5 = decide (s.fsm = .complete ∨ s.fsm = .upToDate ∨ s.fsm = .fail) ∧
    s.seqStatus.getLsbD 6 = (s.seqStatus.getLsbD 5 && s.exitCode) ∧
    s.seqStatus.getLsbD 7 = s.doneSeen ∧
    s.seqStatus.extractLsb' 8 4 = s.err.toBits ∧
    s.seqStatus.extractLsb' 12 8 = s.errInfo ∧
    s.seqStatus.getLsbD 20 = s.errBus ∧
    s.seqStatus.extractLsb' 21 11 = 0#11) ∧
  [Fsm.idle, .validate, .idRead, .gate, .unlockBuild, .unlockWrite, .unlockSettle, .unlockStatus, .chunkRead, .chunkWrite,
    .chunkSettle, .pollRead, .pollDelay, .advance, .finalRead, .resetWrite, .resetDelay, .complete, .upToDate,
    .fail].map (fun f => f.toBits.toNat) = List.range 20

/-- R16, R112: a code's byte decodes to the code, and a byte that is no code's encoding decodes to `Unknown`. -/
def Obligations.StatusBytesDecode : Prop :=
  (∀ c d : StatusCode, statusEnc c = statusEnc d → c = d) ∧
  (∀ (b : Byte) (c : StatusCode), decodeStatus b = .code c ↔ statusEnc c = b) ∧
  ∀ b : Byte, (∀ c, statusEnc c ≠ b) → decodeStatus b = .unknown b

/-- R21, R75, R122: `le32` sends bits 7:0 first, and the revision is byte 30 times 256 plus byte 31, or the other way round. -/
def Obligations.OperandsAreAssembled : Prop :=
  (∀ v : U32, le32 v = [v.extractLsb' 0 8, v.extractLsb' 8 8, v.extractLsb' 16 8, v.extractLsb' 24 8]) ∧
  (∀ v : U32, ((le32 v).zipIdx.map fun p => p.1.toNat * 256 ^ p.2).sum = v.toNat) ∧
  (∀ a b : Byte, (revision .be a b).toNat = a.toNat * 256 + b.toNat) ∧
  ∀ a b : Byte, (revision .le a b).toNat = b.toNat * 256 + a.toNat

/-! ## Invariants of a run -/

/-- R61, R223: the reset state meets every invariant below. -/
def Obligations.ResetMeetsTheInvariants : Prop :=
  Inv State.reset ∧ CountsFit State.reset ∧ PayloadInv State.reset ∧ ProtocolInv State.reset ∧
    inFlightAfter (some none) State.reset.trace = some State.reset.outstanding ∧
    (∀ r, Event.issue r ∈ State.reset.trace → r.lawful) ∧ State.reset.image.wf = true

/-- R223 with R56, R107, R109, R203, R205, R221: every step keeps the invariant. -/
def Obligations.StepKeepsInv : Prop := ∀ s t : State, Inv s → step s = .next t → Inv t

/-- From a state that meets the invariant a step always answers a next state: the sequencer raises no fault of the model and
presents no refused word. -/
def Obligations.StepNeverStops : Prop := ∀ s : State, Inv s → ∃ t, step s = .next t

/-- The operations the sequencer issues have the operands the spec gives them (R113, R177, R182). -/
def Obligations.IssuedOperationsAreWellFormed : Prop :=
  ∀ (s : State) (i : Instr), Inv s → stateOp s = some i → i.wf = true

/-- R224, R226, R227: every step keeps the counts of the device's reads and writes. -/
def Obligations.StepKeepsTheCounts : Prop :=
  ∀ s t : State, Inv s → CountsFit s → step s = .next t → CountsFit t

/-- R72, R76, R224: with a stable image (R297) every step keeps that the payload sent is the image's bytes from offset 0, and
that at the end it is all `img_size` of them. -/
def Obligations.StepKeepsThePayload : Prop :=
  ∀ s t : State, Inv s → PayloadInv s → step s = .next t → PayloadInv t

/-- R86, R226, R298 to R303: every step keeps that the history on the ports follows the protocol. -/
def Obligations.StepKeepsTheProtocol : Prop :=
  ∀ s t : State, Inv s → ProtocolInv s → step s = .next t → ProtocolInv t

/-- R86, R298: requests and answers alternate in the history, and the one without an answer is the outstanding one, whatever is
presented to the block. -/
def Obligations.OneRequestInFlight : Prop :=
  ∀ s t : State, inFlightAfter (some none) s.trace = some s.outstanding → step s = .next t →
    inFlightAfter (some none) t.trace = some t.outstanding

/-- R81, R104, R105: every port request in the history has one of the widths of R81 and a frame of the length its descriptor
says. -/
def Obligations.RequestsKeepTheirWidths : Prop :=
  ∀ s t : State, (∀ r, Event.issue r ∈ s.trace → r.lawful) → step s = .next t → ∀ r, Event.issue r ∈ t.trace → r.lawful

/-- Every step keeps the image memory canonical. The form (offsets in rising order below 2^32) is the model's own way to hold the
image (log entry 5); no rule of the spec speaks of it. -/
def Obligations.ImageMemoryStaysCanonical : Prop :=
  ∀ s t : State, s.image.wf = true → step s = .next t → t.image.wf = true

/-- R72, R90: no step of the block writes the image: only the image store's own changes do, which take effect at the end of the
step (log entry 5). -/
def Obligations.OnlyTheImageStoreWritesTheImage : Prop :=
  ∀ s t : State, step s = .next t →
    t.image = s.image.update s.port.imgSet ∧ (s.port.imgSet = [] → ∀ a, t.image.get? a = s.image.get? a)

/-- R60, R223 third clause: no step of the sequencer reads a register that has no value: two states that differ in such
registers only step to two states that differ in such registers only. -/
def Obligations.UnwrittenRegistersAreNotRead : Prop :=
  ∀ s s' t : State, AgreeOnWritten s t → s.port.unit = none → step s = .next s' →
    ∃ t', step t = .next t' ∧ AgreeOnWritten s' t'

/-! ## Whole runs -/

/-- R305: there is a run in which the device answers `WAIT` for ever; and unless `POLL_LIMIT` is `some n`, as long as a device
answers `WAIT`, be it for ever, the block is in `POLL_READ` and `POLL_DELAY` by turns after every number of steps. -/
def Obligations.WaitRepliesHoldTheBlock : Prop :=
  (∃ s : State, Inv s ∧ s.fsm = .pollRead ∧ ∀ n, (s.env.input n).rst = false ∧ (s.env.input n).saysWait = true) ∧
  ∀ (k : Nat) (s : State), Inv s → s.fsm = .pollRead →
    (∀ n < k, (s.env.input n).rst = false ∧ (s.env.input n).saysWait = true) →
    (∃ n, Config.pollLimit = some n) ∨
      ∃ t, Sys2Proof.core.run k s = .next t ∧ t.fsm = (if k % 2 = 0 then .pollRead else .pollDelay) ∧
        t.waitCount = s.waitCount + (k + 1) / 2

/-- R308, with the number of steps from R227: a started run that is not reset ends within `n` steps, if these are enough for two
things. One is the steps in which the transport does not answer, late answers among them: a request that is answered makes
only finitely many. The other is the `WAIT` answers: all of them, or, where `POLL_LIMIT` is `some m`, `m` of them a chunk,
however many there are. No number of steps is enough for a request that is never answered (R171) or, without a
`POLL_LIMIT`, for a device that answers `WAIT` for ever (R305). The steps counted are the model's (log entries 9 and 10). -/
def Obligations.AnsweredRunsEnd : Prop :=
  ∀ (s : State) (n : Nat), Inv s → s.fsm ≠ .idle ∨ s.port.start = true → (∀ k < n, (s.env.input k).rst = false) →
    runBound Config.pollLimit (s.env.first n) ≤ n →
    ∃ t, Sys2Proof.core.run n s = .next t ∧ t.fsm.terminal = true
end

