-- ==== Sys2Proof/Laws/Encoding.lean ====
section
/-! SUPPORT. The bits of the encodings, in the widths in which `encode` joins them, and the numbers of the enumerations. -/

namespace Sys2Proof

theorem ErrCode.ofBits_toBits (c : ErrCode) : ErrCode.ofBits c.toBits = some c := by cases c <;> rfl

theorem ErrCode.toBits_of_ofBits {b : BitVec 4} {c : ErrCode} (h : ErrCode.ofBits b = some c) : c.toBits = b := by
  revert b c; decide

theorem InfoKind.ofBits_toBits (k : InfoKind) : InfoKind.ofBits k.toBits = some k := by cases k <;> rfl

theorem InfoKind.toBits_of_ofBits {b : BitVec 2} {k : InfoKind} (h : InfoKind.ofBits b = some k) : k.toBits = b := by
  revert b k; decide

/-- The low part of two joined words. -/
theorem extract_low {n m w : Nat} (hw : w = n + m) (x : BitVec n) (y : BitVec m) :
    (BitVec.cast hw.symm (x ++ y)).extractLsb' 0 m = y := by
  subst hw
  apply BitVec.eq_of_getLsbD_eq
  intro i hi
  simp [BitVec.getLsbD_append, hi]

/-- The high part of two joined words. -/
theorem extract_high {n m w : Nat} (hw : w = n + m) (x : BitVec n) (y : BitVec m) :
    (BitVec.cast hw.symm (x ++ y)).extractLsb' m n = x := by
  subst hw
  apply BitVec.eq_of_getLsbD_eq
  intro i hi
  simp [BitVec.getLsbD_append, hi]

/-- A field that lies in the high part of two joined words. -/
theorem extract_in_high {n m w : Nat} (hw : w = n + m) (x : BitVec n) (y : BitVec m) (k len : Nat) :
    (BitVec.cast hw.symm (x ++ y)).extractLsb' (m + k) len = x.extractLsb' k len := by
  subst hw
  apply BitVec.eq_of_getLsbD_eq
  intro i hi
  simp [BitVec.getLsbD_append, hi, Nat.add_assoc]

/-- Two neighbouring fields that make up a word. -/
theorem join_fields {n m w : Nat} (hw : w = n + m) (v : BitVec w) :
    BitVec.cast hw.symm (v.extractLsb' m n ++ v.extractLsb' 0 m) = v := by
  subst hw
  apply BitVec.eq_of_getLsbD_eq
  intro i hi
  simp

end Sys2Proof
end

