-- ==== Sys2Proof/Laws/Env.lean ====
section
/-! SUPPORT. The environment: one lemma per operation on it, and how a fact about every listed and every repeated input becomes a
fact about every step. -/

namespace Sys2Proof.Machine

@[simp] theorem Env.now_listed (i : Input) (rest : List Input) (l : Later) : Env.now ⟨i :: rest, l⟩ = i := rfl
@[simp] theorem Env.next_listed (i : Input) (rest : List Input) (l : Later) : Env.next ⟨i :: rest, l⟩ = ⟨rest, l⟩ := rfl
@[simp] theorem Env.now_repeats (inputs : List Input) : Env.now ⟨[], .repeats inputs⟩ = inputs.headD Input.silent := rfl
@[simp] theorem Env.next_repeats (inputs : List Input) :
    Env.next ⟨[], .repeats inputs⟩ = ⟨inputs.tail, .repeats inputs⟩ := rfl
@[simp] theorem Env.now_drawn (k : Nat) : Env.now ⟨[], .drawn k⟩ = Config.draw k := rfl
@[simp] theorem Env.next_drawn (k : Nat) : Env.next ⟨[], .drawn k⟩ = ⟨[], .drawn (k + 1)⟩ := rfl
@[simp] theorem Env.now_silent : Env.silent.now = Input.silent := rfl
@[simp] theorem Env.next_silent : Env.silent.next = Env.silent := rfl
@[simp] theorem Env.input_zero (e : Env) : e.input 0 = e.now := rfl
@[simp] theorem Env.input_succ (e : Env) (n : Nat) : e.input (n + 1) = e.next.input n := rfl
@[simp] theorem Env.first_zero (e : Env) : e.first 0 = [] := rfl
@[simp] theorem Env.first_succ (e : Env) (n : Nat) : e.first (n + 1) = e.now :: e.next.first n := rfl
@[simp] theorem Env.now_place (e : Env) (i : Input) : (e.place i).now = i := rfl
@[simp] theorem Env.next_place (e : Env) (i : Input) : (e.place i).next = e.next := rfl

/-- The draws of an environment of which nothing is known are taken one after another. -/
theorem Env.input_drawn (k n : Nat) : Env.input ⟨[], .drawn k⟩ n = Config.draw (k + n) := by
  induction n generalizing k with
  | zero => rfl
  | succ n ih => rw [Env.input_succ, Env.next_drawn, ih, Nat.add_right_comm]; rfl

/-- What every listed and every repeated input has, and silence, every input to come has. -/
theorem Env.input_of_forall {P : Input → Prop} {listed inputs : List Input} (hs : inputs = [] → P Input.silent)
    (hl : ∀ i ∈ listed, P i) (hr : ∀ i ∈ inputs, P i) (n : Nat) : P (Env.input ⟨listed, .repeats inputs⟩ n) := by
  induction n generalizing listed with
  | zero =>
    cases listed with
    | cons i rest => exact hl i (by simp)
    | nil =>
      cases inputs with
      | nil => exact hs rfl
      | cons i rest => exact hr i (by simp)
  | succ n ih =>
    cases listed with
    | cons i rest => exact ih fun j hj => hl j (by simp [hj])
    | nil => exact ih fun j hj => hr j (List.mem_of_mem_tail hj)

/-- The first inputs are the inputs of the first steps. -/
theorem Env.mem_first {e : Env} {n : Nat} {i : Input} : i ∈ e.first n ↔ ∃ k < n, e.input k = i := by
  induction n generalizing e with
  | zero => simp
  | succ n ih =>
    rw [Env.first_succ, List.mem_cons, ih]
    constructor
    · rintro (rfl | ⟨k, hk, rfl⟩)
      · exact ⟨0, Nat.succ_pos n, rfl⟩
      · exact ⟨k + 1, Nat.succ_lt_succ hk, rfl⟩
    · rintro ⟨k, hk, rfl⟩
      cases k with
      | zero => exact .inl rfl
      | succ k => exact .inr ⟨k, Nat.lt_of_succ_lt_succ hk, rfl⟩

end Sys2Proof.Machine
end

