-- ==== Sys2Proof/Laws/State.lean ====
section
/-! SUPPORT. One lemma per field of `State` for each named update of it, true by `rfl`, so that no proof unfolds an update. -/

namespace Sys2Proof.Machine

/-! ## `State.emit` -/

@[simp] theorem State.emit_fsm (s : State) (e : OutEvent) : (s.emit e).fsm = s.fsm := rfl
@[simp] theorem State.emit_crc (s : State) (e : OutEvent) : (s.emit e).crc = s.crc := rfl
@[simp] theorem State.emit_imgSize (s : State) (e : OutEvent) : (s.emit e).imgSize = s.imgSize := rfl
@[simp] theorem State.emit_imgRev (s : State) (e : OutEvent) : (s.emit e).imgRev = s.imgRev := rfl
@[simp] theorem State.emit_imgMagic (s : State) (e : OutEvent) : (s.emit e).imgMagic = s.imgMagic := rfl
@[simp] theorem State.emit_devRev (s : State) (e : OutEvent) : (s.emit e).devRev = s.devRev := rfl
@[simp] theorem State.emit_offset (s : State) (e : OutEvent) : (s.emit e).offset = s.offset := rfl
@[simp] theorem State.emit_chunk (s : State) (e : OutEvent) : (s.emit e).chunk = s.chunk := rfl
@[simp] theorem State.emit_ubuf (s : State) (e : OutEvent) : (s.emit e).ubuf = s.ubuf := rfl
@[simp] theorem State.emit_idblk (s : State) (e : OutEvent) : (s.emit e).idblk = s.idblk := rfl
@[simp] theorem State.emit_st (s : State) (e : OutEvent) : (s.emit e).st = s.st := rfl
@[simp] theorem State.emit_waitCount (s : State) (e : OutEvent) : (s.emit e).waitCount = s.waitCount := rfl
@[simp] theorem State.emit_err (s : State) (e : OutEvent) : (s.emit e).err = s.err := rfl
@[simp] theorem State.emit_errInfo (s : State) (e : OutEvent) : (s.emit e).errInfo = s.errInfo := rfl
@[simp] theorem State.emit_errBus (s : State) (e : OutEvent) : (s.emit e).errBus = s.errBus := rfl
@[simp] theorem State.emit_doneSeen (s : State) (e : OutEvent) : (s.emit e).doneSeen = s.doneSeen := rfl
@[simp] theorem State.emit_exitCode (s : State) (e : OutEvent) : (s.emit e).exitCode = s.exitCode := rfl
@[simp] theorem State.emit_out (s : State) (e : OutEvent) : (s.emit e).out = s.out ++ [e] := rfl
@[simp] theorem State.emit_outstanding (s : State) (e : OutEvent) : (s.emit e).outstanding = s.outstanding := rfl
@[simp] theorem State.emit_reply (s : State) (e : OutEvent) : (s.emit e).reply = s.reply := rfl
@[simp] theorem State.emit_trace (s : State) (e : OutEvent) : (s.emit e).trace = s.trace ++ [.out e] := rfl
@[simp] theorem State.emit_image (s : State) (e : OutEvent) : (s.emit e).image = s.image := rfl
@[simp] theorem State.emit_env (s : State) (e : OutEvent) : (s.emit e).env = s.env := rfl
@[simp] theorem State.emit_port (s : State) (e : OutEvent) : (s.emit e).port = s.port := rfl

/-! ## `State.issued` -/

@[simp] theorem State.issued_fsm (s : State) (r : PortRequest) : (s.issued r).fsm = s.fsm := rfl
@[simp] theorem State.issued_crc (s : State) (r : PortRequest) : (s.issued r).crc = s.crc := rfl
@[simp] theorem State.issued_imgSize (s : State) (r : PortRequest) : (s.issued r).imgSize = s.imgSize := rfl
@[simp] theorem State.issued_imgRev (s : State) (r : PortRequest) : (s.issued r).imgRev = s.imgRev := rfl
@[simp] theorem State.issued_imgMagic (s : State) (r : PortRequest) : (s.issued r).imgMagic = s.imgMagic := rfl
@[simp] theorem State.issued_devRev (s : State) (r : PortRequest) : (s.issued r).devRev = s.devRev := rfl
@[simp] theorem State.issued_offset (s : State) (r : PortRequest) : (s.issued r).offset = s.offset := rfl
@[simp] theorem State.issued_chunk (s : State) (r : PortRequest) : (s.issued r).chunk = s.chunk := rfl
@[simp] theorem State.issued_ubuf (s : State) (r : PortRequest) : (s.issued r).ubuf = s.ubuf := rfl
@[simp] theorem State.issued_idblk (s : State) (r : PortRequest) : (s.issued r).idblk = s.idblk := rfl
@[simp] theorem State.issued_st (s : State) (r : PortRequest) : (s.issued r).st = s.st := rfl
@[simp] theorem State.issued_waitCount (s : State) (r : PortRequest) : (s.issued r).waitCount = s.waitCount := rfl
@[simp] theorem State.issued_err (s : State) (r : PortRequest) : (s.issued r).err = s.err := rfl
@[simp] theorem State.issued_errInfo (s : State) (r : PortRequest) : (s.issued r).errInfo = s.errInfo := rfl
@[simp] theorem State.issued_errBus (s : State) (r : PortRequest) : (s.issued r).errBus = s.errBus := rfl
@[simp] theorem State.issued_doneSeen (s : State) (r : PortRequest) : (s.issued r).doneSeen = s.doneSeen := rfl
@[simp] theorem State.issued_exitCode (s : State) (r : PortRequest) : (s.issued r).exitCode = s.exitCode := rfl
@[simp] theorem State.issued_out (s : State) (r : PortRequest) : (s.issued r).out = s.out := rfl
@[simp] theorem State.issued_outstanding (s : State) (r : PortRequest) : (s.issued r).outstanding = some r := rfl
@[simp] theorem State.issued_reply (s : State) (r : PortRequest) : (s.issued r).reply = none := rfl
@[simp] theorem State.issued_trace (s : State) (r : PortRequest) :
    (s.issued r).trace = if s.outstanding = none then s.trace ++ [.issue r] else s.trace := rfl
@[simp] theorem State.issued_image (s : State) (r : PortRequest) : (s.issued r).image = s.image := rfl
@[simp] theorem State.issued_env (s : State) (r : PortRequest) : (s.issued r).env = s.env := rfl
@[simp] theorem State.issued_port (s : State) (r : PortRequest) : (s.issued r).port = s.port := rfl

/-! ## `State.answered` -/

@[simp] theorem State.answered_fsm (s : State) (a : Reply) : (s.answered a).fsm = s.fsm := rfl
@[simp] theorem State.answered_crc (s : State) (a : Reply) : (s.answered a).crc = s.crc := rfl
@[simp] theorem State.answered_imgSize (s : State) (a : Reply) : (s.answered a).imgSize = s.imgSize := rfl
@[simp] theorem State.answered_imgRev (s : State) (a : Reply) : (s.answered a).imgRev = s.imgRev := rfl
@[simp] theorem State.answered_imgMagic (s : State) (a : Reply) : (s.answered a).imgMagic = s.imgMagic := rfl
@[simp] theorem State.answered_devRev (s : State) (a : Reply) : (s.answered a).devRev = s.devRev := rfl
@[simp] theorem State.answered_offset (s : State) (a : Reply) : (s.answered a).offset = s.offset := rfl
@[simp] theorem State.answered_chunk (s : State) (a : Reply) : (s.answered a).chunk = s.chunk := rfl
@[simp] theorem State.answered_ubuf (s : State) (a : Reply) : (s.answered a).ubuf = s.ubuf := rfl
@[simp] theorem State.answered_idblk (s : State) (a : Reply) : (s.answered a).idblk = s.idblk := rfl
@[simp] theorem State.answered_st (s : State) (a : Reply) : (s.answered a).st = s.st := rfl
@[simp] theorem State.answered_waitCount (s : State) (a : Reply) : (s.answered a).waitCount = s.waitCount := rfl
@[simp] theorem State.answered_err (s : State) (a : Reply) : (s.answered a).err = s.err := rfl
@[simp] theorem State.answered_errInfo (s : State) (a : Reply) : (s.answered a).errInfo = s.errInfo := rfl
@[simp] theorem State.answered_errBus (s : State) (a : Reply) : (s.answered a).errBus = s.errBus := rfl
@[simp] theorem State.answered_doneSeen (s : State) (a : Reply) : (s.answered a).doneSeen = s.doneSeen := rfl
@[simp] theorem State.answered_exitCode (s : State) (a : Reply) : (s.answered a).exitCode = s.exitCode := rfl
@[simp] theorem State.answered_out (s : State) (a : Reply) : (s.answered a).out = s.out := rfl
@[simp] theorem State.answered_outstanding (s : State) (a : Reply) : (s.answered a).outstanding = none := rfl
@[simp] theorem State.answered_reply (s : State) (a : Reply) : (s.answered a).reply = some a := rfl
@[simp] theorem State.answered_trace (s : State) (a : Reply) : (s.answered a).trace = s.trace ++ [.answer a] := rfl
@[simp] theorem State.answered_image (s : State) (a : Reply) : (s.answered a).image = s.image := rfl
@[simp] theorem State.answered_env (s : State) (a : Reply) : (s.answered a).env = s.env := rfl
@[simp] theorem State.answered_port (s : State) (a : Reply) : (s.answered a).port = s.port := rfl

/-! ## `State.raiseFatal` -/

@[simp] theorem State.raiseFatal_fsm (s : State) (c : ErrCode) (i : Byte) (b : Bool) :
    (s.raiseFatal c i b).fsm = .fail := rfl
@[simp] theorem State.raiseFatal_crc (s : State) (c : ErrCode) (i : Byte) (b : Bool) :
    (s.raiseFatal c i b).crc = s.crc := rfl
@[simp] theorem State.raiseFatal_imgSize (s : State) (c : ErrCode) (i : Byte) (b : Bool) :
    (s.raiseFatal c i b).imgSize = s.imgSize := rfl
@[simp] theorem State.raiseFatal_imgRev (s : State) (c : ErrCode) (i : Byte) (b : Bool) :
    (s.raiseFatal c i b).imgRev = s.imgRev := rfl
@[simp] theorem State.raiseFatal_imgMagic (s : State) (c : ErrCode) (i : Byte) (b : Bool) :
    (s.raiseFatal c i b).imgMagic = s.imgMagic := rfl
@[simp] theorem State.raiseFatal_devRev (s : State) (c : ErrCode) (i : Byte) (b : Bool) :
    (s.raiseFatal c i b).devRev = s.devRev := rfl
@[simp] theorem State.raiseFatal_offset (s : State) (c : ErrCode) (i : Byte) (b : Bool) :
    (s.raiseFatal c i b).offset = s.offset := rfl
@[simp] theorem State.raiseFatal_chunk (s : State) (c : ErrCode) (i : Byte) (b : Bool) :
    (s.raiseFatal c i b).chunk = s.chunk := rfl
@[simp] theorem State.raiseFatal_ubuf (s : State) (c : ErrCode) (i : Byte) (b : Bool) :
    (s.raiseFatal c i b).ubuf = s.ubuf := rfl
@[simp] theorem State.raiseFatal_idblk (s : State) (c : ErrCode) (i : Byte) (b : Bool) :
    (s.raiseFatal c i b).idblk = s.idblk := rfl
@[simp] theorem State.raiseFatal_st (s : State) (c : ErrCode) (i : Byte) (b : Bool) :
    (s.raiseFatal c i b).st = s.st := rfl
@[simp] theorem State.raiseFatal_waitCount (s : State) (c : ErrCode) (i : Byte) (b : Bool) :
    (s.raiseFatal c i b).waitCount = s.waitCount := rfl
@[simp] theorem State.raiseFatal_err (s : State) (c : ErrCode) (i : Byte) (b : Bool) :
    (s.raiseFatal c i b).err = c := rfl
@[simp] theorem State.raiseFatal_errInfo (s : State) (c : ErrCode) (i : Byte) (b : Bool) :
    (s.raiseFatal c i b).errInfo = i := rfl
@[simp] theorem State.raiseFatal_errBus (s : State) (c : ErrCode) (i : Byte) (b : Bool) :
    (s.raiseFatal c i b).errBus = b := rfl
@[simp] theorem State.raiseFatal_doneSeen (s : State) (c : ErrCode) (i : Byte) (b : Bool) :
    (s.raiseFatal c i b).doneSeen = s.doneSeen := rfl
@[simp] theorem State.raiseFatal_exitCode (s : State) (c : ErrCode) (i : Byte) (b : Bool) :
    (s.raiseFatal c i b).exitCode = true := rfl
@[simp] theorem State.raiseFatal_out (s : State) (c : ErrCode) (i : Byte) (b : Bool) :
    (s.raiseFatal c i b).out = s.out ++ [.diag c i b] := rfl
@[simp] theorem State.raiseFatal_outstanding (s : State) (c : ErrCode) (i : Byte) (b : Bool) :
    (s.raiseFatal c i b).outstanding = s.outstanding := rfl
@[simp] theorem State.raiseFatal_reply (s : State) (c : ErrCode) (i : Byte) (b : Bool) :
    (s.raiseFatal c i b).reply = s.reply := rfl
@[simp] theorem State.raiseFatal_trace (s : State) (c : ErrCode) (i : Byte) (b : Bool) :
    (s.raiseFatal c i b).trace = s.trace ++ [.out (.diag c i b)] := rfl
@[simp] theorem State.raiseFatal_image (s : State) (c : ErrCode) (i : Byte) (b : Bool) :
    (s.raiseFatal c i b).image = s.image := rfl
@[simp] theorem State.raiseFatal_env (s : State) (c : ErrCode) (i : Byte) (b : Bool) :
    (s.raiseFatal c i b).env = s.env := rfl
@[simp] theorem State.raiseFatal_port (s : State) (c : ErrCode) (i : Byte) (b : Bool) : (s.raiseFatal c i b).port = s.port := rfl

/-! ## `State.endStep` -/

@[simp] theorem State.endStep_fsm (s : State) : (s.endStep).fsm = s.fsm := rfl
@[simp] theorem State.endStep_crc (s : State) : (s.endStep).crc = s.crc := rfl
@[simp] theorem State.endStep_imgSize (s : State) : (s.endStep).imgSize = s.imgSize := rfl
@[simp] theorem State.endStep_imgRev (s : State) : (s.endStep).imgRev = s.imgRev := rfl
@[simp] theorem State.endStep_imgMagic (s : State) : (s.endStep).imgMagic = s.imgMagic := rfl
@[simp] theorem State.endStep_devRev (s : State) : (s.endStep).devRev = s.devRev := rfl
@[simp] theorem State.endStep_offset (s : State) : (s.endStep).offset = s.offset := rfl
@[simp] theorem State.endStep_chunk (s : State) : (s.endStep).chunk = s.chunk := rfl
@[simp] theorem State.endStep_ubuf (s : State) : (s.endStep).ubuf = s.ubuf := rfl
@[simp] theorem State.endStep_idblk (s : State) : (s.endStep).idblk = s.idblk := rfl
@[simp] theorem State.endStep_st (s : State) : (s.endStep).st = s.st := rfl
@[simp] theorem State.endStep_waitCount (s : State) : (s.endStep).waitCount = s.waitCount := rfl
@[simp] theorem State.endStep_err (s : State) : (s.endStep).err = s.err := rfl
@[simp] theorem State.endStep_errInfo (s : State) : (s.endStep).errInfo = s.errInfo := rfl
@[simp] theorem State.endStep_errBus (s : State) : (s.endStep).errBus = s.errBus := rfl
@[simp] theorem State.endStep_doneSeen (s : State) : (s.endStep).doneSeen = s.doneSeen := rfl
@[simp] theorem State.endStep_exitCode (s : State) : (s.endStep).exitCode = s.exitCode := rfl
@[simp] theorem State.endStep_out (s : State) : (s.endStep).out = s.out := rfl
@[simp] theorem State.endStep_outstanding (s : State) : (s.endStep).outstanding = s.outstanding := rfl
@[simp] theorem State.endStep_reply (s : State) : (s.endStep).reply = none := rfl
@[simp] theorem State.endStep_trace (s : State) : (s.endStep).trace = s.trace := rfl
@[simp] theorem State.endStep_image (s : State) : (s.endStep).image = s.image.update s.port.imgSet := rfl
@[simp] theorem State.endStep_env (s : State) : (s.endStep).env = s.env.next := rfl

/-! ## `State.reset` and `State.resetBlock` -/

@[simp] theorem State.reset_fsm : State.reset.fsm = .idle := rfl
@[simp] theorem State.reset_crc : State.reset.crc = 0x00#8 := rfl
@[simp] theorem State.reset_imgSize : State.reset.imgSize = 0#32 := rfl
@[simp] theorem State.reset_imgRev : State.reset.imgRev = 0#8 := rfl
@[simp] theorem State.reset_imgMagic : State.reset.imgMagic = Vector.replicate 11 0#8 := rfl
@[simp] theorem State.reset_devRev : State.reset.devRev = 0#16 := rfl
@[simp] theorem State.reset_offset : State.reset.offset = 0#32 := rfl
@[simp] theorem State.reset_chunk : State.reset.chunk = Vector.replicate 129 0#8 := rfl
@[simp] theorem State.reset_ubuf : State.reset.ubuf = Vector.replicate 13 0#8 := rfl
@[simp] theorem State.reset_idblk : State.reset.idblk = Vector.replicate 32 0#8 := rfl
@[simp] theorem State.reset_st : State.reset.st = 0#8 := rfl
@[simp] theorem State.reset_waitCount : State.reset.waitCount = 0 := rfl
@[simp] theorem State.reset_err : State.reset.err = .none := rfl
@[simp] theorem State.reset_errInfo : State.reset.errInfo = 0#8 := rfl
@[simp] theorem State.reset_errBus : State.reset.errBus = false := rfl
@[simp] theorem State.reset_doneSeen : State.reset.doneSeen = false := rfl
@[simp] theorem State.reset_exitCode : State.reset.exitCode = false := rfl
@[simp] theorem State.reset_out : State.reset.out = [] := rfl
@[simp] theorem State.reset_outstanding : State.reset.outstanding = none := rfl
@[simp] theorem State.reset_reply : State.reset.reply = none := rfl
@[simp] theorem State.reset_trace : State.reset.trace = [] := rfl
@[simp] theorem State.reset_image : State.reset.image = [] := rfl
@[simp] theorem State.reset_env : State.reset.env = Env.silent := rfl
@[simp] theorem State.resetBlock_fsm (s : State) : s.resetBlock.fsm = .idle := rfl
@[simp] theorem State.resetBlock_crc (s : State) : s.resetBlock.crc = 0x00#8 := rfl
@[simp] theorem State.resetBlock_imgSize (s : State) : s.resetBlock.imgSize = 0#32 := rfl
@[simp] theorem State.resetBlock_imgRev (s : State) : s.resetBlock.imgRev = 0#8 := rfl
@[simp] theorem State.resetBlock_imgMagic (s : State) : s.resetBlock.imgMagic = Vector.replicate 11 0#8 := rfl
@[simp] theorem State.resetBlock_devRev (s : State) : s.resetBlock.devRev = 0#16 := rfl
@[simp] theorem State.resetBlock_offset (s : State) : s.resetBlock.offset = 0#32 := rfl
@[simp] theorem State.resetBlock_chunk (s : State) : s.resetBlock.chunk = Vector.replicate 129 0#8 := rfl
@[simp] theorem State.resetBlock_ubuf (s : State) : s.resetBlock.ubuf = Vector.replicate 13 0#8 := rfl
@[simp] theorem State.resetBlock_idblk (s : State) : s.resetBlock.idblk = Vector.replicate 32 0#8 := rfl
@[simp] theorem State.resetBlock_st (s : State) : s.resetBlock.st = 0#8 := rfl
@[simp] theorem State.resetBlock_waitCount (s : State) : s.resetBlock.waitCount = 0 := rfl
@[simp] theorem State.resetBlock_err (s : State) : s.resetBlock.err = .none := rfl
@[simp] theorem State.resetBlock_errInfo (s : State) : s.resetBlock.errInfo = 0#8 := rfl
@[simp] theorem State.resetBlock_errBus (s : State) : s.resetBlock.errBus = false := rfl
@[simp] theorem State.resetBlock_doneSeen (s : State) : s.resetBlock.doneSeen = false := rfl
@[simp] theorem State.resetBlock_exitCode (s : State) : s.resetBlock.exitCode = false := rfl
@[simp] theorem State.resetBlock_out (s : State) : s.resetBlock.out = [] := rfl
@[simp] theorem State.resetBlock_outstanding (s : State) : s.resetBlock.outstanding = none := rfl
@[simp] theorem State.resetBlock_reply (s : State) : s.resetBlock.reply = none := rfl
@[simp] theorem State.resetBlock_trace (s : State) : s.resetBlock.trace = [] := rfl
@[simp] theorem State.resetBlock_image (s : State) : s.resetBlock.image = s.image := rfl
@[simp] theorem State.resetBlock_env (s : State) : s.resetBlock.env = s.env := rfl

/-! ## `State.withFetchWord` -/

@[simp] theorem State.withFetchWord_port (s : State) (nbits w : Nat) :
    (s.withFetchWord nbits w).port = s.port.present (tablePortWord nbits w) := rfl
@[simp] theorem State.withFetchWord_fsm (s : State) (nbits w : Nat) : (s.withFetchWord nbits w).fsm = s.fsm := rfl
@[simp] theorem State.withFetchWord_env (s : State) (nbits w : Nat) :
    (s.withFetchWord nbits w).env = s.env.place (s.port.present (tablePortWord nbits w)) := rfl

end Sys2Proof.Machine
end

