-- ==== Sys2Proof/Laws/Memory.lean ====
section
/-! SUPPORT. The image memory: every operation keeps its canonical form, a read after a write, and what a run of reads delivers. -/

namespace Sys2Proof.Machine

theorem Memory.wfFrom_mono {lo lo' : Nat} (h : lo' ≤ lo) : ∀ {m : Memory}, m.wfFrom lo = true → m.wfFrom lo' = true
  | [], _ => rfl
  | (a, v) :: rest, hm => by
    simp only [Memory.wfFrom, Bool.and_eq_true, decide_eq_true_eq] at hm ⊢
    exact ⟨⟨by omega, hm.1.2⟩, hm.2⟩

theorem Memory.insert_wfFrom {lo a : Nat} {v : Byte} (ha : a < imgSpace) :
    ∀ {m : Memory}, m.wfFrom lo = true → lo ≤ a → (m.insert a v).wfFrom lo = true
  | [], _, h => by simp [Memory.insert, Memory.wfFrom, h, ha]
  | (b, w) :: rest, hm, h => by
    simp only [Memory.wfFrom, Bool.and_eq_true, decide_eq_true_eq] at hm
    unfold Memory.insert
    split
    · simp only [Memory.wfFrom, Bool.and_eq_true, decide_eq_true_eq]
      exact ⟨⟨h, ha⟩, ⟨by omega, hm.1.2⟩, hm.2⟩
    · split
      · simp only [Memory.wfFrom, Bool.and_eq_true, decide_eq_true_eq]
        subst_vars
        exact ⟨⟨h, ha⟩, hm.2⟩
      · simp only [Memory.wfFrom, Bool.and_eq_true, decide_eq_true_eq]
        exact ⟨hm.1, Memory.insert_wfFrom ha hm.2 (by omega)⟩

theorem Memory.erase_wfFrom {lo a : Nat} : ∀ {m : Memory}, m.wfFrom lo = true → (m.erase a).wfFrom lo = true
  | [], _ => rfl
  | (b, w) :: rest, hm => by
    simp only [Memory.wfFrom, Bool.and_eq_true, decide_eq_true_eq] at hm
    unfold Memory.erase
    split
    · exact Memory.wfFrom_mono (by omega) hm.2
    · simp only [Memory.wfFrom, Bool.and_eq_true, decide_eq_true_eq]
      exact ⟨hm.1, Memory.erase_wfFrom hm.2⟩

theorem Memory.set_wf {m : Memory} (a : Nat) (v : Option Byte) (hm : m.wf = true) : (m.set a v).wf = true := by
  unfold Memory.set
  split
  next ha =>
    cases v with
    | none => exact Memory.erase_wfFrom hm
    | some b => exact Memory.insert_wfFrom ha hm (Nat.zero_le a)
  · exact hm

/-- Every change of the image store keeps the canonical form. -/
theorem Memory.update_wf (changes : List (Nat × Option Byte)) :
    ∀ {m : Memory}, m.wf = true → (m.update changes).wf = true := by
  induction changes with
  | nil => exact fun h => h
  | cons c rest ih => exact fun h => ih (Memory.set_wf c.1 c.2 h)

theorem Memory.reset_wf : State.reset.image.wf = true := rfl

@[simp] theorem Memory.update_nil (m : Memory) : m.update [] = m := rfl

/-- An offset below the first one holds no byte. -/
theorem Memory.get?_below {lo a : Nat} (h : a < lo) : ∀ {m : Memory}, m.wfFrom lo = true → m.get? a = none
  | [], _ => rfl
  | (b, w) :: rest, hm => by
    simp only [Memory.wfFrom, Bool.and_eq_true, decide_eq_true_eq] at hm
    simp only [Memory.get?, show ¬ a = b by omega, if_false]
    exact Memory.get?_below (by omega) hm.2

theorem Memory.get?_insert (a b : Nat) (v : Byte) :
    ∀ m : Memory, (m.insert a v).get? b = if b = a then some v else m.get? b
  | [] => by simp [Memory.insert, Memory.get?]
  | (c, w) :: rest => by
    have ih := Memory.get?_insert a b v rest
    by_cases hac : a < c
    · simp [Memory.insert, Memory.get?, hac]
    · by_cases he : a = c
      · subst he; by_cases hb : b = a <;> simp [Memory.insert, Memory.get?, hb]
      · simp only [Memory.insert, hac, he, if_false, Memory.get?, ih]
        by_cases hb : b = c
        · simp [hb, Ne.symm he]
        · simp [hb]

theorem Memory.get?_erase {lo : Nat} (a b : Nat) :
    ∀ {m : Memory}, m.wfFrom lo = true → (m.erase a).get? b = if b = a then none else m.get? b
  | [], _ => by simp [Memory.erase, Memory.get?]
  | (c, w) :: rest, hm => by
    simp only [Memory.wfFrom, Bool.and_eq_true, decide_eq_true_eq] at hm
    have ih := Memory.get?_erase a b hm.2
    by_cases he : a = c
    · subst he
      by_cases hb : b = a
      · subst hb; simpa [Memory.erase] using Memory.get?_below (Nat.lt_succ_self b) hm.2
      · simp [Memory.erase, Memory.get?, hb]
    · simp only [Memory.erase, he, if_false, Memory.get?, ih]
      by_cases hb : b = c
      · simp [hb, Ne.symm he]
      · simp [hb]

/-- A read after a write: the written offset holds what was written, every other one what it held. -/
theorem Memory.get?_set {m : Memory} (hm : m.wf = true) (a b : Nat) (v : Option Byte) (ha : a < imgSpace) :
    (m.set a v).get? b = if b = a then v else m.get? b := by
  cases v with
  | none => simpa [Memory.set, ha] using Memory.get?_erase a b hm
  | some x => simpa [Memory.set, ha] using Memory.get?_insert a b x m

/-! ## Runs of reads -/

theorem Memory.readRun_length_le (m : Memory) : ∀ (n a : Nat), (m.readRun a n).length ≤ n
  | 0, _ => Nat.le_refl 0
  | n + 1, a => by
    cases h : m.get? a with
    | none => simp [Memory.readRun, h]
    | some b => simpa [Memory.readRun, h] using Memory.readRun_length_le m n (a + 1)

theorem Memory.get?_of_readRun (m : Memory) :
    ∀ (n a i : Nat) (h : i < (m.readRun a n).length), m.get? (a + i) = some (m.readRun a n)[i]
  | 0, _, _, h => by simp [Memory.readRun] at h
  | n + 1, a, i, h => by
    cases hb : m.get? a with
    | none => simp [Memory.readRun, hb] at h
    | some b =>
      cases i with
      | zero => simp [Memory.readRun, hb]
      | succ i =>
        have h' : i < (m.readRun (a + 1) n).length := by simpa [Memory.readRun, hb] using h
        have := Memory.get?_of_readRun m n (a + 1) i h'
        simpa [Memory.readRun, hb, Nat.add_assoc, Nat.add_comm 1 i] using this

/-- A run that is shorter than asked stops at an offset without a byte. -/
theorem Memory.readRun_stops (m : Memory) :
    ∀ (n a : Nat), (m.readRun a n).length < n → m.get? (a + (m.readRun a n).length) = none
  | 0, _, h => by simp at h
  | n + 1, a, h => by
    cases hb : m.get? a with
    | none => simp [Memory.readRun, hb]
    | some b =>
      have h' : (m.readRun (a + 1) n).length < n := by simpa [Memory.readRun, hb] using h
      have := Memory.readRun_stops m n (a + 1) h'
      simpa [Memory.readRun, hb, Nat.add_assoc, Nat.add_comm 1] using this

/-- Two full runs, one behind the other, are one run. -/
theorem Memory.readRun_add (m : Memory) :
    ∀ (k n a : Nat), (m.readRun a k).length = k → m.readRun a (k + n) = m.readRun a k ++ m.readRun (a + k) n
  | 0, n, a, _ => by simp [Memory.readRun]
  | k + 1, n, a, h => by
    cases hb : m.get? a with
    | none => simp [Memory.readRun, hb] at h
    | some b =>
      have h' : (m.readRun (a + 1) k).length = k := by simpa [Memory.readRun, hb] using h
      have := Memory.readRun_add m k n (a + 1) h'
      rw [Nat.add_right_comm]
      simp [Memory.readRun, hb, this, Nat.add_assoc, Nat.add_comm 1 k]

end Sys2Proof.Machine
end

