-- ==== Sys2Proof/Laws/Ops.lean ====
section
/-! SUPPORT. One lemma per shared operation: everything it can do. -/

namespace Sys2Proof.Machine

@[simp] theorem andThen_next (s : State) (f : State → Host.Outcome State Fault Refusal) : andThen (.next s) f = f s := rfl

@[simp] theorem andThen_fault (r : Fault) (f : State → Host.Outcome State Fault Refusal) :
    andThen (.fault r) f = .fault r := rfl

@[simp] theorem andThen_refused (r : Refusal) (f : State → Host.Outcome State Fault Refusal) :
    andThen (.refused r) f = .refused r := rfl

/-- A sequence answers a next state only through one of its first part. -/
theorem andThen_eq_next {o : Host.Outcome State Fault Refusal} {f : State → Host.Outcome State Fault Refusal} {t : State} :
    andThen o f = .next t ↔ ∃ s, o = .next s ∧ f s = .next t := by
  cases o with
  | next s => simp
  | fault r => simp
  | refused r => simp

theorem State.ready_iff {s : State} {r : PortRequest} :
    s.ready r = true ↔ s.outstanding = none ∨ s.outstanding = some r := by
  simp [State.ready]

/-- `issue` puts the request on its port where it may stand there, and stops elsewhere. -/
theorem issue_of_ready {s : State} {r : PortRequest} (h : s.ready r = true) : issue r s = .next (s.issued r) := by
  simp [issue, h]

theorem issue_of_not_ready {s : State} {r : PortRequest} (h : s.ready r = false) :
    issue r s = .fault .requestInFlight := by
  simp [issue, h]

/-- Everything a transport request can do. -/
theorem transport_of_ready {s : State} {desc : BitVec 9} {frame : List Byte}
    (h : s.ready (.bus Config.devAddr desc frame) = true) :
    transport desc frame s = .next (s.transacted (.bus Config.devAddr desc frame) desc s.port.bus) := by
  simp [transport, issue_of_ready h]

theorem transport_eq_next {s t : State} {desc : BitVec 9} {frame : List Byte} :
    transport desc frame s = .next t ↔
      s.ready (.bus Config.devAddr desc frame) = true ∧
        t = s.transacted (.bus Config.devAddr desc frame) desc s.port.bus := by
  cases h : s.ready (.bus Config.devAddr desc frame) with
  | true => simp [transport_of_ready h, eq_comm]
  | false => simp [transport, issue_of_not_ready h]

/-- Everything an image read can do. -/
theorem memRead_eq_next {s t : State} {off : U32} {n : Nat} :
    memRead off n s = .next t ↔
      s.ready (.img off n) = true ∧ t = (s.issued (.img off n)).answered (.image (s.imageBytes off n)) := by
  cases h : s.ready (.img off n) with
  | true => simp [memRead, issue_of_ready h, eq_comm]
  | false => simp [memRead, issue_of_not_ready h]

/-- Everything a delay can do. -/
theorem delay_eq_next {s t : State} {k : TimerKind} :
    delay k s = .next t ↔ s.ready (.tmr k) = true ∧ t = (s.issued (.tmr k)).answered .timer := by
  cases h : s.ready (.tmr k) with
  | true => simp [delay, issue_of_ready h, eq_comm]
  | false => simp [delay, issue_of_not_ready h]

/-- A buffer that is filled to its length holds exactly the bytes given. -/
theorem bufOf_toList {n : Nat} {l : List Byte} (h : l.length = n) : (bufOf n l).toList = l := by
  subst h
  apply List.ext_getElem <;> simp [bufOf]

theorem bufOf_vector {n : Nat} (v : Vector Byte n) : bufOf n v.toList = v := by
  rw [← Vector.toList_inj]
  exact bufOf_toList (by simp)

/-- The port operations of the generator, one after another, end to end. -/
theorem runOps_append (xs ys : List Instr) (s : State) :
    runOps (xs ++ ys) s = andThen (runOps xs s) (runOps ys) := by
  induction xs generalizing s with
  | nil => rfl
  | cons i rest ih =>
    simp only [List.cons_append, runOps]
    cases exec i s with
    | next t => exact ih t
    | fault r => rfl
    | refused r => rfl

/-- Updates with every byte of a list fold the list into `crc`. -/
theorem runOps_updates (bytes : List Byte) (s : State) :
    runOps (bytes.map .crcUpdate) s = .next { s with crc := crcRun s.crc bytes } := by
  induction bytes generalizing s with
  | nil => rfl
  | cons b rest ih =>
    simp only [List.map_cons, runOps, exec, execCrcUpdate, andThen_next, ih]
    rfl

/-- An accepted image size, in arithmetic (R80, R203). -/
theorem goodSize_iff {size : U32} :
    goodSize size = true ↔ 0 < size.toNat ∧ size.toNat ≤ 131072 ∧ size.toNat % 128 = 0 := by
  simp only [goodSize, Bool.and_eq_true, decide_eq_true_eq, and_assoc]
  exact Iff.rfl

/-- The offset of the next chunk does not wrap (R225). -/
theorem nextOffset_toNat {s : State} (h : s.offset.toNat + 128 ≤ s.imgSize.toNat) :
    s.nextOffset.toNat = s.offset.toNat + 128 := by
  have := s.imgSize.isLt
  rw [State.nextOffset, BitVec.toNat_add, BitVec.toNat_ofNat]
  omega

theorem crc8_eq_crcRun (bytes : List Byte) : crc8 bytes = crcRun 0x00#8 bytes := BitVec.xor_zero

/-- Everything `crc.block` does (R125): `crc8` of the bytes in `crc`, and nothing else. -/
theorem crcBlock_eq (bytes : List Byte) (s : State) : crcBlock bytes s = .next { s with crc := crc8 bytes } := by
  simp only [crcBlock, runOps, exec, execCrcClear, andThen_next, runOps_updates, crc8_eq_crcRun]
  rfl

end Sys2Proof.Machine
end

