-- ==== Sys2Proof/Laws/PerInstr.lean ====
section
/-! SUPPORT. Statements about every operation as syntax, one lemma per constructor. -/

namespace Sys2Proof

/-- A row of spec/opcode_table.json: the width of its format, its mask and its match. -/
structure TableRow where
  width : Nat
  mask : Nat
  pattern : Nat
  deriving DecidableEq, Repr

/-- The row of an operation. The table gives `OUT_EVT` its 2-bit tag only; the width is the model's (log entry 8). -/
def Instr.tableRow : Instr → TableRow
  | .crcNop _ => ⟨10, 0x300, 0x000⟩
  | .crcClear _ => ⟨10, 0x300, 0x100⟩
  | .crcUpdate _ => ⟨10, 0x300, 0x200⟩
  | .busIdRead => ⟨9, 0x1FF, 0x020⟩
  | .busUnlockWrite => ⟨9, 0x1FF, 0x10D⟩
  | .busStatusRead => ⟨9, 0x1FF, 0x001⟩
  | .busChunkWrite => ⟨9, 0x1FF, 0x181⟩
  | .busResetWrite => ⟨9, 0x1FF, 0x101⟩
  | .imgRead _ => ⟨40, 0xFF00000000, 0x8000000000⟩
  | .tmrUnlockSettle => ⟨2, 0x3, 0x0⟩
  | .tmrChunkSettle => ⟨2, 0x3, 0x1⟩
  | .tmrPoll => ⟨2, 0x3, 0x2⟩
  | .tmrResetExit => ⟨2, 0x3, 0x3⟩
  | .outProgress _ _ => ⟨66, 0x3, 0x0⟩
  | .outInfo _ => ⟨66, 0x3, 0x1⟩
  | .outDiag _ _ _ => ⟨66, 0x3, 0x2⟩
  | .ctlStart => ⟨2, 0x3, 0x1⟩
  | .ctlReset _ => ⟨2, 0x2, 0x2⟩

namespace Laws.MatchesRow

/-- The operation's word fits its row's width and has its row's match under the row's mask. -/
def Statement (i : Instr) : Prop :=
  (encode i).number < 2 ^ i.tableRow.width ∧ (encode i).number &&& i.tableRow.mask = i.tableRow.pattern

/-- A word whose two lowest bits are `tag`. -/
theorem low_tag {n : Nat} (x : BitVec n) (tag : BitVec 2) : (x ++ tag).toNat &&& 3 = tag.toNat := by
  rw [show (3 : Nat) = 2 ^ 2 - 1 from rfl, Nat.and_two_pow_sub_one_eq_mod, BitVec.toNat_append]
  have h := tag.isLt
  rw [← Nat.shiftLeft_add_eq_or_of_lt h, Nat.shiftLeft_eq]
  omega

theorem crcNop (din : Byte) : Statement (.crcNop din) := ⟨BitVec.isLt _, by revert din; decide +kernel⟩
theorem crcClear (din : Byte) : Statement (.crcClear din) := ⟨BitVec.isLt _, by revert din; decide +kernel⟩
theorem crcUpdate (din : Byte) : Statement (.crcUpdate din) := ⟨BitVec.isLt _, by revert din; decide +kernel⟩
theorem busIdRead : Statement .busIdRead := ⟨by decide, by decide⟩
theorem busUnlockWrite : Statement .busUnlockWrite := ⟨by decide, by decide⟩
theorem busStatusRead : Statement .busStatusRead := ⟨by decide, by decide⟩
theorem busChunkWrite : Statement .busChunkWrite := ⟨by decide, by decide⟩
theorem busResetWrite : Statement .busResetWrite := ⟨by decide, by decide⟩
theorem imgRead (off : U32) : Statement (.imgRead off) := by
  refine ⟨(128#8 ++ off).isLt, ?_⟩
  show (128#8 ++ off).toNat &&& (0xFF#8 ++ 0#32).toNat = 0x8000000000
  rw [← BitVec.toNat_and]
  have h : (128#8 ++ off) &&& (0xFF#8 ++ 0#32) = 128#8 ++ 0#32 := by
    apply BitVec.eq_of_getLsbD_eq
    intro i hi
    by_cases h : i < 32
    · simp only [BitVec.getLsbD_and, BitVec.getLsbD_append, h, if_true]
      simp
    · have : i - 32 < 8 := by omega
      simp only [BitVec.getLsbD_and, BitVec.getLsbD_append, h, if_false]
      generalize i - 32 = k at this
      revert k; decide
  rw [h]
  rfl
theorem tmrUnlockSettle : Statement .tmrUnlockSettle := ⟨by decide, by decide⟩
theorem tmrChunkSettle : Statement .tmrChunkSettle := ⟨by decide, by decide⟩
theorem tmrPoll : Statement .tmrPoll := ⟨by decide, by decide⟩
theorem tmrResetExit : Statement .tmrResetExit := ⟨by decide, by decide⟩
theorem outProgress (remaining total : U32) : Statement (.outProgress remaining total) :=
  ⟨(total ++ remaining ++ 0#2).isLt, low_tag (total ++ remaining) 0#2⟩
theorem outInfo (kind : InfoKind) : Statement (.outInfo kind) :=
  ⟨(0#62 ++ kind.toBits ++ 1#2).isLt, low_tag (0#62 ++ kind.toBits) 1#2⟩
theorem outDiag (code : ErrCode) (info : Byte) (bus : Bool) : Statement (.outDiag code info bus) :=
  ⟨(0#51 ++ BitVec.ofBool bus ++ info ++ code.toBits ++ 2#2).isLt,
    low_tag (0#51 ++ BitVec.ofBool bus ++ info ++ code.toBits) 2#2⟩
theorem ctlStart : Statement .ctlStart := ⟨by decide, by decide⟩
theorem ctlReset (start : Bool) : Statement (.ctlReset start) := by
  cases start <;> exact ⟨by decide, by decide⟩

end Laws.MatchesRow
end Sys2Proof
end

