-- ==== Sys2Proof/Laws/Step.lean ====
section
/-! SUPPORT. How a step is put together: which of its parts runs, and what the rules see of an answer. -/

namespace Sys2Proof.Machine

theorem quiet_iff {s : State} : s.quiet = true ↔ s.port.rst = false ∧ s.port.unit = none := by
  simp [State.quiet]

/-- A quiet step that is no start is the sequencer's, and then the input ports move on. -/
theorem step_sequencer {s : State} (h : s.quiet = true) (hf : s.fsm ≠ .idle ∨ s.port.start = false) :
    step s = andThen (sequencerStep s) fun t => .next t.endStep := by
  rw [quiet_iff] at h
  have : (s.port.start && decide (s.fsm = .idle)) = false := by
    rcases hf with hf | hf <;> simp [hf]
  simp [step, cycle, perform, operate, h, this]

/-- A quiet step with `start` high in `IDLE` is the start. -/
theorem step_start {s : State} (h : s.quiet = true) (hf : s.fsm = .idle) (hs : s.port.start = true) :
    step s = andThen (execCtlStart s) fun t => .next t.endStep := by
  rw [quiet_iff] at h
  simp [step, cycle, perform, operate, h, hf, hs, exec]

/-- Whatever runs in a step, the input ports move on behind it. -/
theorem step_eq_next {s t : State} : step s = .next t ↔ ∃ u, perform s = .next u ∧ t = u.endStep := by
  unfold step cycle
  rw [andThen_eq_next]
  simp [eq_comm]

/-- A quiet step is a start or the sequencer's. -/
theorem step_quiet_cases {s t : State} (h : s.quiet = true) (ht : step s = .next t) :
    (s.fsm = .idle ∧ t = State.endStep { s with
      imgSize := s.port.footer.binSize, imgRev := s.port.footer.revision, imgMagic := s.port.footer.magic,
      fsm := .validate }) ∨
    ∃ u, sequencerStep s = .next u ∧ t = u.endStep := by
  by_cases hf : s.fsm = .idle ∧ s.port.start = true
  · rw [step_start h hf.1 hf.2] at ht
    exact .inl ⟨hf.1, by simpa [execCtlStart, hf.1] using ht.symm⟩
  · rw [step_sequencer h (by by_cases hi : s.fsm = .idle <;> simp_all), andThen_eq_next] at ht
    obtain ⟨u, hu, ht⟩ := ht
    exact .inr ⟨u, hu, by simpa using ht.symm⟩

theorem take_one (v : Vector Byte 32) : v.toList.take 1 = [v[0]] := by
  apply List.ext_getElem
  · simp
  · intro i h1 h2
    simp at h2
    subst h2; simp

@[simp] theorem busReply_fail (d : BitVec 9) : busReply d .fail = .fail := rfl

/-- The answer to an identity read has all 32 bytes (R45, R81). -/
@[simp] theorem busReply_idRead (v : Vector Byte 32) : busReply descIdRead (.ok v) = .ok v.toList := by
  show Reply.ok (v.toList.take 32) = _
  rw [List.take_of_length_le]; simp

/-- The answer to a status read has one byte (R45, R81). -/
@[simp] theorem busReply_statusRead (v : Vector Byte 32) : busReply descStatusRead (.ok v) = .ok [v[0]] := by
  show Reply.ok (v.toList.take 1) = _
  rw [take_one]

@[simp] theorem busReply_unlockWrite (v : Vector Byte 32) : busReply descUnlockWrite (.ok v) = .ok [] := rfl

@[simp] theorem busReply_chunkWrite (v : Vector Byte 32) : busReply descChunkWrite (.ok v) = .ok [] := rfl

@[simp] theorem busReply_resetWrite (v : Vector Byte 32) : busReply descResetWrite (.ok v) = .ok [] := rfl

/-- The positions of R50's list as bytes are all different. -/
theorem positionByte_injective : Function.Injective fun c : StatusCode => BitVec.ofNat 8 (StatusCode.position c) := by
  intro c d
  cases c <;> cases d <;> simp [StatusCode.position]

/-- `STATUS_ENC` never gives two codes one byte (R16). -/
theorem statusEnc_injective {c d : StatusCode} (h : statusEnc c = statusEnc d) : c = d :=
  positionByte_injective (Config.statusPerm.injective h)

/-- The model loses none of R16's freedom: every injective map of the codes into bytes is a permutation of the bytes,
taken at the codes' positions. -/
theorem statusEnc_covers_every_injective_map (f : StatusCode → Byte) (hf : Function.Injective f) :
    ∃ p : Equiv.Perm Byte, ∀ c, p (BitVec.ofNat 8 (StatusCode.position c)) = f c :=
  have : Finite StatusCode := Finite.of_injective _ positionByte_injective
  Equiv.Perm.exists_extending_pair _ f positionByte_injective hf

/-- A byte decodes to a code exactly where the code's encoding is that byte (R112). -/
theorem decodeStatus_eq_code {b : Byte} {c : StatusCode} : decodeStatus b = .code c ↔ statusEnc c = b := by
  unfold decodeStatus decodeStatusWith
  split
  next d h =>
    have hd : statusEnc d = b := by simpa using List.find?_some h
    constructor
    · intro e; cases e; exact hd
    · intro e; rw [statusEnc_injective (hd.trans e.symm)]
  next h =>
    have hall := List.find?_eq_none.mp h
    constructor
    · intro e; cases e
    · intro e; exact absurd (by simpa using e) (hall c (by cases c <;> simp [allStatusCodes]))

@[simp] theorem decodeStatus_statusEnc (c : StatusCode) : decodeStatus (statusEnc c) = .code c :=
  decodeStatus_eq_code.mpr rfl

/-! ## How many `WAIT` answers a run can take -/

theorem waitBound_le (limit : Option Nat) (inputs : List Input) : waitBound limit inputs ≤ inputs.countP Input.saysWait := by
  cases limit with
  | none => exact Nat.le_refl _
  | some m => exact Nat.min_le_left _ _

theorem waitBound_le_limit (m : Nat) (inputs : List Input) : waitBound (some m) inputs ≤ 1024 * m := Nat.min_le_right _ _

end Sys2Proof.Machine
end

