-- ==== Sys2Proof/Laws/Sequencer.lean ====
section
/-! SUPPORT. For each state of the sequencer, everything its step can do: the claims about steps cite these and never unfold a
rule. -/

namespace Sys2Proof.Machine

/-! ## The port operation of a state -/

/-- A transport state: its request may stand on the bus, and its rule takes the answer. -/
theorem sequencer_bus {s u : State} {i : Instr} {d : BitVec 9} {frame : List Byte} (hop : stateOp s = some i)
    (he : exec i s = transport d frame s) (h : sequencerStep s = .next u) :
    s.ready (.bus Config.devAddr d frame) = true ∧
      stateRule s.fsm (s.transacted (.bus Config.devAddr d frame) d s.port.bus) = .next u := by
  have h' : andThen (exec i s) (stateRule s.fsm) = .next u := by simpa only [sequencerStep, hop] using h
  rw [he, andThen_eq_next] at h'
  obtain ⟨t, ht, hu⟩ := h'
  obtain ⟨hr, rfl⟩ := transport_eq_next.mp ht
  exact ⟨hr, hu⟩

/-- A delay state: its request may stand on the timer port, and the timer answers. -/
theorem sequencer_delay {s u : State} {i : Instr} {k : TimerKind} (hop : stateOp s = some i) (he : exec i s = delay k s)
    (h : sequencerStep s = .next u) :
    s.ready (.tmr k) = true ∧ stateRule s.fsm ((s.issued (.tmr k)).answered .timer) = .next u := by
  have h' : andThen (exec i s) (stateRule s.fsm) = .next u := by simpa only [sequencerStep, hop] using h
  rw [he, andThen_eq_next] at h'
  obtain ⟨t, ht, hu⟩ := h'
  obtain ⟨hr, rfl⟩ := delay_eq_next.mp ht
  exact ⟨hr, hu⟩

/-- A write's rule: it waits, fails, or goes on. -/
theorem ruleWritten_cases {s u : State} {r : PortRequest} {d : BitVec 9} {f : Fsm} (hd : d.getLsbD 8 = true)
    (h : ruleWritten f (s.transacted r d s.port.bus) = .next u) :
    (s.port.bus = none ∧ u = s.issued r) ∨
    (s.port.bus = some .fail ∧ u = ((s.issued r).answered .fail).raiseFatal .writeFailed 0#8 true) ∨
    (∃ v, s.port.bus = some (.ok v) ∧ u = { (s.issued r).answered (.ok []) with fsm := f }) := by
  cases hb : s.port.bus with
  | none => exact .inl ⟨rfl, by simpa [hb, State.transacted, ruleWritten, State.issued] using h.symm⟩
  | some a =>
    cases a with
    | fail => exact .inr (.inl ⟨rfl, by simpa [hb, State.transacted, ruleWritten, State.answered] using h.symm⟩)
    | ok v => exact .inr (.inr ⟨v, rfl, by simpa [hb, State.transacted, ruleWritten, State.answered, busReply, hd] using h.symm⟩)

/-! ## One lemma per state -/

theorem sequencer_idle {s u : State} (hf : s.fsm = .idle) (h : sequencerStep s = .next u) : u = s := by
  simpa [sequencerStep, stateOp, stateRule, hf] using h.symm

theorem sequencer_terminal {s u : State} (hf : s.fsm.terminal = true) (h : sequencerStep s = .next u) : u = s := by
  cases hs : s.fsm <;> simp [hs, Fsm.terminal] at hf <;> simpa [sequencerStep, stateOp, stateRule, hs] using h.symm

theorem sequencer_validate {s u : State} (hf : s.fsm = .validate) (h : sequencerStep s = .next u) :
    (s.imgMagic = Config.footerMagic ∧ goodSize s.imgSize = true ∧ u = { s with fsm := .idRead }) ∨
    u = s.raiseFatal .invalidImage 0#8 false := by
  have e : ruleValidate s = .next u := by simpa [sequencerStep, stateOp, stateRule, hf] using h
  unfold ruleValidate at e
  split at e
  · exact .inr (by simpa using e.symm)
  split at e
  · exact .inr (by simpa using e.symm)
  split at e
  · exact .inr (by simpa using e.symm)
  split at e
  · exact .inr (by simpa using e.symm)
  next h1 h2 h3 h4 =>
    refine .inl ⟨by simpa using h1, ?_, by simpa using e.symm⟩
    simp only [goodSize, Bool.and_eq_true, decide_eq_true_eq]
    omega

theorem sequencer_idRead {s u : State} (hf : s.fsm = .idRead) (h : sequencerStep s = .next u) :
    let r := PortRequest.bus Config.devAddr descIdRead []
    s.ready r = true ∧
      ((s.port.bus = none ∧ u = s.issued r) ∨
      (s.port.bus = some .fail ∧ u = ((s.issued r).answered .fail).raiseFatal .readFailed 0#8 true) ∨
      (∃ v, s.port.bus = some (.ok v) ∧ u = { (s.issued r).answered (.ok v.toList) with
        idblk := v, devRev := revision Config.revOrder v[30] v[31], fsm := .gate })) := by
  obtain ⟨hr, hu⟩ := sequencer_bus (i := .busIdRead) (by simp [stateOp, hf]) rfl h
  refine ⟨hr, ?_⟩
  simp only [hf, stateRule] at hu
  cases hb : s.port.bus with
  | none => exact .inl ⟨rfl, by simpa [hb, State.transacted, ruleIdRead, State.issued] using hu.symm⟩
  | some a =>
    cases a with
    | fail => exact .inr (.inl ⟨rfl, by simpa [hb, State.transacted, ruleIdRead, State.answered] using hu.symm⟩)
    | ok v => exact .inr (.inr ⟨v, rfl, by
        simpa [hb, State.transacted, ruleIdRead, State.answered, bufOf_vector] using hu.symm⟩)

theorem sequencer_gate {s u : State} (hf : s.fsm = .gate) (h : sequencerStep s = .next u) :
    (s.devRev < Config.minRev ∧ u = s.raiseFatal .unsupportedDevice 0#8 false) ∨
    (Config.minRev ≤ s.devRev ∧ s.devRev = s.imgRev.setWidth 16 ∧
      u = { s.emit (.info .upToDate) with exitCode := false, fsm := .upToDate }) ∨
    (Config.minRev ≤ s.devRev ∧ s.devRev ≠ s.imgRev.setWidth 16 ∧ u = { s with fsm := .unlockBuild }) := by
  have e : ruleGate s = .next u := by simpa [sequencerStep, stateOp, stateRule, hf] using h
  unfold ruleGate at e
  split at e
  next h1 => exact .inl ⟨h1, by simpa using e.symm⟩
  next h1 =>
    have h1' : Config.minRev ≤ s.devRev := BitVec.not_lt.mp h1
    split at e
    next h2 => exact .inr (.inl ⟨h1', h2, by simpa [exec, execOutInfo] using e.symm⟩)
    next h2 => exact .inr (.inr ⟨h1', h2, by simpa using e.symm⟩)

theorem sequencer_unlockBuild {s u : State} (hf : s.fsm = .unlockBuild) (h : sequencerStep s = .next u) :
    let fields := unlockFields Config.magicKey Config.flashLoc s.imgSize
    u = { s with crc := crc8 fields, ubuf := bufOf 13 (fields ++ [crc8 fields]), fsm := .unlockWrite } := by
  have e : ruleUnlockBuild s = .next u := by simpa [sequencerStep, stateOp, stateRule, hf] using h
  simpa only [ruleUnlockBuild, crcBlock_eq, andThen_next, Host.Outcome.next.injEq] using e.symm

theorem sequencer_unlockWrite {s u : State} (hf : s.fsm = .unlockWrite) (h : sequencerStep s = .next u) :
    let r := PortRequest.bus Config.devAddr descUnlockWrite s.ubuf.toList
    s.ready r = true ∧
      ((s.port.bus = none ∧ u = s.issued r) ∨
      (s.port.bus = some .fail ∧ u = ((s.issued r).answered .fail).raiseFatal .writeFailed 0#8 true) ∨
      (∃ v, s.port.bus = some (.ok v) ∧ u = { (s.issued r).answered (.ok []) with fsm := .unlockSettle })) := by
  obtain ⟨hr, hu⟩ := sequencer_bus (i := .busUnlockWrite) (by simp [stateOp, hf]) rfl h
  simp only [hf, stateRule] at hu
  exact ⟨hr, ruleWritten_cases rfl hu⟩

theorem sequencer_chunkWrite {s u : State} (hf : s.fsm = .chunkWrite) (h : sequencerStep s = .next u) :
    let r := PortRequest.bus Config.devAddr descChunkWrite s.chunk.toList
    s.ready r = true ∧
      ((s.port.bus = none ∧ u = s.issued r) ∨
      (s.port.bus = some .fail ∧ u = ((s.issued r).answered .fail).raiseFatal .writeFailed 0#8 true) ∨
      (∃ v, s.port.bus = some (.ok v) ∧ u = { (s.issued r).answered (.ok []) with fsm := .chunkSettle })) := by
  obtain ⟨hr, hu⟩ := sequencer_bus (i := .busChunkWrite) (by simp [stateOp, hf]) rfl h
  simp only [hf, stateRule] at hu
  exact ⟨hr, ruleWritten_cases rfl hu⟩

theorem sequencer_resetWrite {s u : State} (hf : s.fsm = .resetWrite) (h : sequencerStep s = .next u) :
    let r := PortRequest.bus Config.devAddr descResetWrite [statusEnc .reset]
    s.ready r = true ∧
      ((s.port.bus = none ∧ u = s.issued r) ∨
      (s.port.bus = some .fail ∧ u = ((s.issued r).answered .fail).raiseFatal .writeFailed 0#8 true) ∨
      (∃ v, s.port.bus = some (.ok v) ∧ u = { (s.issued r).answered (.ok []) with fsm := .resetDelay })) := by
  obtain ⟨hr, hu⟩ := sequencer_bus (i := .busResetWrite) (by simp [stateOp, hf]) rfl h
  simp only [hf, stateRule] at hu
  exact ⟨hr, ruleWritten_cases rfl hu⟩

theorem sequencer_unlockSettle {s u : State} (hf : s.fsm = .unlockSettle) (h : sequencerStep s = .next u) :
    s.ready (.tmr .unlockSettle) = true ∧
      u = { (s.issued (.tmr .unlockSettle)).answered .timer with fsm := .unlockStatus } := by
  obtain ⟨hr, hu⟩ := sequencer_delay (i := .tmrUnlockSettle) (by simp [stateOp, hf]) rfl h
  simp only [hf, stateRule, ruleUnlockSettle] at hu
  exact ⟨hr, by simpa only [Host.Outcome.next.injEq] using hu.symm⟩

theorem sequencer_chunkSettle {s u : State} (hf : s.fsm = .chunkSettle) (h : sequencerStep s = .next u) :
    s.ready (.tmr .chunkSettle) = true ∧
      u = { (s.issued (.tmr .chunkSettle)).answered .timer with fsm := .pollRead } := by
  obtain ⟨hr, hu⟩ := sequencer_delay (i := .tmrChunkSettle) (by simp [stateOp, hf]) rfl h
  simp only [hf, stateRule, ruleChunkSettle] at hu
  exact ⟨hr, by simpa only [Host.Outcome.next.injEq] using hu.symm⟩

theorem sequencer_pollDelay {s u : State} (hf : s.fsm = .pollDelay) (h : sequencerStep s = .next u) :
    s.ready (.tmr .poll) = true ∧ u = { (s.issued (.tmr .poll)).answered .timer with fsm := .pollRead } := by
  obtain ⟨hr, hu⟩ := sequencer_delay (i := .tmrPoll) (by simp [stateOp, hf]) rfl h
  simp only [hf, stateRule, rulePollDelay] at hu
  exact ⟨hr, by simpa only [Host.Outcome.next.injEq] using hu.symm⟩

theorem sequencer_resetDelay {s u : State} (hf : s.fsm = .resetDelay) (h : sequencerStep s = .next u) :
    s.ready (.tmr .resetExit) = true ∧
      u = { (s.issued (.tmr .resetExit)).answered .timer with exitCode := false, fsm := .complete } := by
  obtain ⟨hr, hu⟩ := sequencer_delay (i := .tmrResetExit) (by simp [stateOp, hf]) rfl h
  simp only [hf, stateRule, ruleResetDelay] at hu
  exact ⟨hr, by simpa only [Host.Outcome.next.injEq] using hu.symm⟩

theorem sequencer_unlockStatus {s u : State} (hf : s.fsm = .unlockStatus) (h : sequencerStep s = .next u) :
    let r := PortRequest.bus Config.devAddr descStatusRead []
    s.ready r = true ∧
      ((s.port.bus = none ∧ u = s.issued r) ∨
      (s.port.bus = some .fail ∧ u = ((s.issued r).answered .fail).raiseFatal .unlockRejected 0#8 true) ∨
      (∃ v, s.port.bus = some (.ok v) ∧
        ((decodeStatus v[0] = .code .unlocked ∧
          u = { (s.issued r).answered (.ok [v[0]]) with st := v[0], offset := 0#32, fsm := .chunkRead }) ∨
        (decodeStatus v[0] ≠ .code .unlocked ∧
          u = State.raiseFatal .unlockRejected v[0] false { (s.issued r).answered (.ok [v[0]]) with st := v[0] })))) := by
  obtain ⟨hr, hu⟩ := sequencer_bus (i := .busStatusRead) (by simp [stateOp, hf]) rfl h
  refine ⟨hr, ?_⟩
  simp only [hf, stateRule] at hu
  cases hb : s.port.bus with
  | none => exact .inl ⟨rfl, by simpa [hb, State.transacted, ruleUnlockStatus, State.issued] using hu.symm⟩
  | some a =>
    cases a with
    | fail => exact .inr (.inl ⟨rfl, by simpa [hb, State.transacted, ruleUnlockStatus, State.answered] using hu.symm⟩)
    | ok v =>
      refine .inr (.inr ⟨v, rfl, ?_⟩)
      simp only [hb, State.transacted, busReply_statusRead, ruleUnlockStatus, State.answered, statusByte,
        List.headD_cons] at hu
      split at hu
      next hd => exact .inl ⟨hd, by simpa [State.answered] using hu.symm⟩
      next hd => exact .inr ⟨hd, by simpa [State.answered] using hu.symm⟩

theorem sequencer_chunkRead {s u : State} (hf : s.fsm = .chunkRead) (h : sequencerStep s = .next u) :
    let d := s.imageBytes s.offset 128
    let t := (s.issued (.img s.offset 128)).answered (.image d)
    s.ready (.img s.offset 128) = true ∧
      ((d.length < 128 ∧ u = t.raiseFatal .ioError 0#8 false) ∨
      (¬ d.length < 128 ∧ u = { t with
        crc := crc8 d, chunk := bufOf 129 (d ++ [crc8 d]), waitCount := 0, fsm := .chunkWrite })) := by
  have h' : andThen (memRead s.offset 128 s) ruleChunkRead = .next u := by
    have e : sequencerStep s = andThen (memRead s.offset 128 s) (stateRule s.fsm) := by simp only [sequencerStep, stateOp, hf]; rfl
    rw [e, hf] at h
    exact h
  obtain ⟨t, ht, hu⟩ := andThen_eq_next.mp h'
  obtain ⟨hr, rfl⟩ := memRead_eq_next.mp ht
  refine ⟨hr, ?_⟩
  simp only [ruleChunkRead, State.answered, Config.chunkSize, crcBlock_eq, andThen_next] at hu
  split at hu
  next hd => exact .inl ⟨hd, by simpa [State.answered] using hu.symm⟩
  next hd => exact .inr ⟨hd, by simpa [State.answered] using hu.symm⟩

/-- What `POLL_READ` does with a byte, by what the byte says (R213). -/
theorem pollVerdict_cases (limit : Option Nat) (b : Byte) (s : State) :
    (decodeStatus b = .code .wait ∧ pollExpired limit s.waitCount = true ∧
      pollVerdict limit b s = State.raiseFatal .pollTimeout b false { s with st := b }) ∨
    (decodeStatus b = .code .wait ∧ pollExpired limit s.waitCount = false ∧
      pollVerdict limit b s = { s with st := b, waitCount := s.waitCount + 1, fsm := .pollDelay }) ∨
    ((decodeStatus b = .code .inProc ∨ decodeStatus b = .code .done) ∧
      pollVerdict limit b s = { s with st := b, fsm := .advance }) ∨
    (decodeStatus b ≠ .code .wait ∧ decodeStatus b ≠ .code .inProc ∧ decodeStatus b ≠ .code .done ∧
      pollVerdict limit b s = State.raiseFatal .deviceReportedError b false { s with st := b }) := by
  unfold pollVerdict
  cases decodeStatus b with
  | unknown x => simp
  | code c =>
    cases c <;> simp
    cases pollExpired limit s.waitCount <;> simp

theorem sequencer_pollRead {s u : State} (hf : s.fsm = .pollRead) (h : sequencerStep s = .next u) :
    let r := PortRequest.bus Config.devAddr descStatusRead []
    s.ready r = true ∧
      ((s.port.bus = none ∧ u = s.issued r) ∨
      (s.port.bus = some .fail ∧ u = ((s.issued r).answered .fail).raiseFatal .readFailed 0#8 true) ∨
      (∃ v, s.port.bus = some (.ok v) ∧
        u = pollVerdict Config.pollLimit v[0] ((s.issued r).answered (.ok [v[0]])))) := by
  obtain ⟨hr, hu⟩ := sequencer_bus (i := .busStatusRead) (by simp [stateOp, hf]) rfl h
  refine ⟨hr, ?_⟩
  simp only [hf, stateRule] at hu
  cases hb : s.port.bus with
  | none => exact .inl ⟨rfl, by simpa [hb, State.transacted, rulePollRead, State.issued] using hu.symm⟩
  | some a =>
    cases a with
    | fail => exact .inr (.inl ⟨rfl, by simpa [hb, State.transacted, rulePollRead, State.answered] using hu.symm⟩)
    | ok v =>
      refine .inr (.inr ⟨v, rfl, ?_⟩)
      simpa [hb, State.transacted, rulePollRead, State.answered, statusByte] using hu.symm

theorem sequencer_advance {s u : State} (hf : s.fsm = .advance) (h : sequencerStep s = .next u) :
    u = { s.emit (.progress (s.imgSize - s.nextOffset) s.imgSize) with
      offset := s.nextOffset, fsm := if s.nextOffset = s.imgSize then .finalRead else .chunkRead } := by
  have e : andThen (exec (.outProgress (s.imgSize - s.nextOffset) s.imgSize) s) ruleAdvance = .next u := by
    have e : sequencerStep s = andThen (exec (.outProgress (s.imgSize - s.nextOffset) s.imgSize) s) (stateRule s.fsm) := by
      simp only [sequencerStep, stateOp, hf]
    rw [e, hf] at h
    exact h
  injection e with e
  exact e.symm

theorem sequencer_finalRead {s u : State} (hf : s.fsm = .finalRead) (h : sequencerStep s = .next u) :
    let r := PortRequest.bus Config.devAddr descStatusRead []
    s.ready r = true ∧
      ((s.port.bus = none ∧ u = s.issued r) ∨
      (s.port.bus = some .fail ∧ u = ((s.issued r).answered .fail).raiseFatal .readFailed 0#8 true) ∨
      (∃ v, s.port.bus = some (.ok v) ∧
        let done := decide (decodeStatus v[0] = .code .done)
        u = { ((s.issued r).answered (.ok [v[0]])).emit (.info (if done then .doneOk else .doneWarn)) with
          st := v[0], doneSeen := done, fsm := .resetWrite })) := by
  obtain ⟨hr, hu⟩ := sequencer_bus (i := .busStatusRead) (by simp [stateOp, hf]) rfl h
  refine ⟨hr, ?_⟩
  simp only [hf, stateRule] at hu
  cases hb : s.port.bus with
  | none => exact .inl ⟨rfl, by simpa [hb, State.transacted, ruleFinalRead, State.issued] using hu.symm⟩
  | some a =>
    cases a with
    | fail => exact .inr (.inl ⟨rfl, by simpa [hb, State.transacted, ruleFinalRead, State.answered] using hu.symm⟩)
    | ok v =>
      refine .inr (.inr ⟨v, rfl, ?_⟩)
      simpa [hb, State.transacted, ruleFinalRead, State.answered, statusByte, exec, execOutInfo, State.emit] using hu.symm

end Sys2Proof.Machine
end

