-- ==== Sys2Proof/Tests/Slice0.lean ====
section
/-! SUPPORT. Tests: expected results come from 95_test_vectors.md or are written out by hand from the rules named, and every
statement with hypotheses has a witness that meets them. -/

namespace Sys2Proof.Tests

open Sys2Proof Sys2Proof.Machine

/-! ## Well-formedness: an ill-formed operation for each check -/

theorem test_wf_imgRead_misaligned : (Instr.imgRead 0x40#32).wf = false := by decide
theorem test_wf_imgRead_beyond_largest_image : (Instr.imgRead 131072#32).wf = false := by decide
theorem test_wf_imgRead_last : (Instr.imgRead 130944#32).wf = true := by decide
theorem test_wf_progress_total_zero : (Instr.outProgress 0#32 0#32).wf = false := by decide
theorem test_wf_progress_total_too_large : (Instr.outProgress 0#32 131200#32).wf = false := by decide
theorem test_wf_progress_total_misaligned : (Instr.outProgress 0#32 127#32).wf = false := by decide
theorem test_wf_progress_nothing_sent : (Instr.outProgress 256#32 256#32).wf = false := by decide
theorem test_wf_progress_remaining_misaligned : (Instr.outProgress 100#32 256#32).wf = false := by decide
theorem test_wf_progress_good : (Instr.outProgress 128#32 256#32).wf = true := by decide
theorem test_wf_diag_no_error : (Instr.outDiag .none 0#8 false).wf = false := by decide
theorem test_wf_diag_image_error_without_info : (Instr.outDiag .invalidImage 1#8 false).wf = false := by decide
theorem test_wf_diag_gate_error_no_bus : (Instr.outDiag .unsupportedDevice 0#8 true).wf = false := by decide
theorem test_wf_diag_short_read_no_bus : (Instr.outDiag .ioError 0#8 true).wf = false := by decide
theorem test_wf_diag_rejected_by_bus_has_no_byte : (Instr.outDiag .unlockRejected 1#8 true).wf = false := by decide
theorem test_wf_diag_write_failure_is_bus : (Instr.outDiag .writeFailed 0#8 false).wf = false := by decide
theorem test_wf_diag_read_failure_has_no_byte : (Instr.outDiag .readFailed 1#8 true).wf = false := by decide
theorem test_wf_diag_device_error_no_bus : (Instr.outDiag .deviceReportedError 1#8 true).wf = false := by decide
theorem test_wf_diag_timeout_no_bus : (Instr.outDiag .pollTimeout 1#8 true).wf = false := by decide

/-! ## Decoding, from words written out from 30_encoding.md, one or more for each operation -/

theorem test_decode_crcNop : decodeCrc 0b00_11111111#10 = .ok (.crcNop 0xFF#8) := by rfl
theorem test_decode_crcClear : decodeCrc 0b01_00000000#10 = .ok (.crcClear 0#8) := by rfl
theorem test_decode_crcUpdate : decodeCrc 0b10_00110100#10 = .ok (.crcUpdate 0x34#8) := by rfl
theorem test_decode_crc_reserved : decodeCrc 0b11_00000000#10 = .error .reservedCrcOp := by rfl
theorem test_decode_busIdRead : decodeBus 0b0_00100000#9 = .ok .busIdRead := by rfl
theorem test_decode_busStatusRead : decodeBus 0b0_00000001#9 = .ok .busStatusRead := by rfl
theorem test_decode_busUnlockWrite : decodeBus 0b1_00001101#9 = .ok .busUnlockWrite := by rfl
theorem test_decode_busChunkWrite : decodeBus 0b1_10000001#9 = .ok .busChunkWrite := by rfl
theorem test_decode_busResetWrite : decodeBus 0b1_00000001#9 = .ok .busResetWrite := by rfl
theorem test_decode_bus_unused : decodeBus 0b1_00100000#9 = .error .unusedBusDesc := by rfl
/-- V-B7. -/
theorem test_decode_imgRead : decodeImg 0x8000000080#40 = .ok (.imgRead 0x80#32) := by rfl
theorem test_decode_img_unused : decodeImg 0x7F00000080#40 = .error .unusedImgCount := by rfl
theorem test_decode_tmrUnlockSettle : decodeTmr 0b00#2 = .ok .tmrUnlockSettle := by rfl
theorem test_decode_tmrChunkSettle : decodeTmr 0b01#2 = .ok .tmrChunkSettle := by rfl
theorem test_decode_tmrPoll : decodeTmr 0b10#2 = .ok .tmrPoll := by rfl
theorem test_decode_tmrResetExit : decodeTmr 0b11#2 = .ok .tmrResetExit := by rfl
/-- `remaining` 128 and `total` 256 above the tag 00, in R116's order. -/
theorem test_decode_outProgress : decodeOut ((256#32 ++ 128#32) ++ 0b00#2) = .ok (.outProgress 128#32 256#32) := by rfl
theorem test_decode_outInfo : decodeOut 0b10_01#66 = .ok (.outInfo .doneWarn) := by rfl
theorem test_decode_outInfo_unused : decodeOut 0b11_01#66 = .error .unusedInfoKind := by rfl
/-- `code` 5, `info` 0x81, `bus` 1 above the tag 10, in R116's order. -/
theorem test_decode_outDiag : decodeOut 0b1_10000001_0101_10#66 = .ok (.outDiag .writeFailed 0x81#8 true) := by rfl
theorem test_decode_outDiag_unused_code : decodeOut 0b0_00000000_1001_10#66 = .error .unusedErrCode := by rfl
theorem test_decode_out_unused_tag : decodeOut 0b11#66 = .error .unusedOutTag := by rfl
theorem test_decode_out_bits_above : decodeOut 0b1_00_01#66 = .error .bitsAboveFields := by rfl
theorem test_decode_ctlStart : decodeCtl 0b01#2 = .ok .ctlStart := by rfl
theorem test_decode_ctlReset : decodeCtl 0b10#2 = .ok (.ctlReset false) := by rfl
theorem test_decode_ctlReset_wins : decodeCtl 0b11#2 = .ok (.ctlReset true) := by rfl
theorem test_decode_ctl_none : decodeCtl 0b00#2 = .error .noCommand := by rfl

/-- The unlock write's and the reset write's descriptors stand in their rows. -/
theorem test_table_words : (encode .busUnlockWrite).number = 0x10D ∧ (encode .busResetWrite).number = 0x101 := by decide
theorem test_table_decode_crc : decodeTableWord 16 0x234 = some (.crcUpdate 0x34#8) := by decide
theorem test_table_decode_bus : decodeTableWord 16 0x181 = some .busChunkWrite := by decide
theorem test_table_decode_img : decodeTableWord 40 0x8000000080 = some (.imgRead 0x80#32) := by decide
theorem test_table_decode_reserved : decodeTableWord 16 0x300 = none := by decide

/-! ## The CRC (95_test_vectors.md section 2) -/

/-- V-C1 to V-C7. -/
theorem test_crc_short :
    crc8 [] = 0x00#8 ∧ crc8 [0x00#8] = 0x00#8 ∧ crc8 [0x01#8] = 0x07#8 ∧ crc8 [0x80#8] = 0x89#8 ∧ crc8 [0xFF#8] = 0xF3#8 ∧
      crc8 [0x55#8] = 0xAC#8 ∧ crc8 [0xAA#8] = 0x5F#8 := by decide +kernel
/-- V-C10. -/
theorem test_crc_check_string :
    crc8 [0x31#8, 0x32#8, 0x33#8, 0x34#8, 0x35#8, 0x36#8, 0x37#8, 0x38#8, 0x39#8] = 0xF4#8 := by decide +kernel
/-- V-C11: the magic tag. -/
theorem test_crc_magic : crc8 Config.footerMagic.toList = 0x3E#8 := by decide +kernel
/-- V-C12. -/
theorem test_crc_counting_chunk : crc8 ((List.range 128).map (BitVec.ofNat 8)) = 0xED#8 := by decide +kernel
/-- V-C15, V-C16. -/
theorem test_crc_constant_chunks :
    crc8 (List.replicate 128 0xFF#8) = 0xF3#8 ∧ crc8 (List.replicate 128 0xA5#8) = 0x72#8 := by decide +kernel
/-- V-C19. -/
theorem test_crc_one_then_zeros : crc8 (0x01#8 :: List.replicate 127 0x00#8) = 0x07#8 := by decide +kernel

/-! ## Frames and operands -/

/-- The unlock frame of `key`, `loc` and `size`. -/
def unlockFrame (key loc size : U32) : List Byte :=
  unlockFields key loc size ++ [crc8 (unlockFields key loc size)]

/-- V-U1. -/
theorem test_unlock_frame_256 : unlockFrame 0#32 0#32 256#32 =
    [0#8, 0#8, 0#8, 0#8, 0#8, 0#8, 0#8, 0#8, 0x00#8, 0x01#8, 0#8, 0#8, 0x6B#8] := by decide +kernel
/-- V-U4. -/
theorem test_unlock_frame_fields : unlockFrame 0x12345678#32 0x00004000#32 256#32 =
    [0x78#8, 0x56#8, 0x34#8, 0x12#8, 0x00#8, 0x40#8, 0x00#8, 0x00#8, 0x00#8, 0x01#8, 0x00#8, 0x00#8, 0xB6#8] := by
  decide +kernel
/-- V-R5, V-R8. -/
theorem test_revision_order : revision .le 0x00#8 0x08#8 = 2048#16 ∧ revision .be 0x01#8 0x08#8 = 264#16 := by decide
/-- R19, R213: `some 3` at the third `WAIT`, `some 0` and `some 1` at the first, `none` never. -/
theorem test_poll_limit :
    pollExpired (some 3) 1 = false ∧ pollExpired (some 3) 2 = true ∧ pollExpired (some 0) 0 = true ∧
      pollExpired (some 1) 0 = true ∧ pollExpired none 1000 = false := by decide

/-! ## Small states -/

/-- A field of the next state, if there is one. -/
def after {α : Type} (o : Host.Outcome State Fault Refusal) (f : State → α) : Option α :=
  match o with
  | .next s => some (f s)
  | .fault _ => none
  | .refused _ => none

/-- An input with an answer of the transport. -/
def answering (a : BusAnswer) : Input := { Input.silent with bus := some a }

/-- The reset state in state `f` of the sequencer, with one input to come. -/
def at_ (f : Fsm) (i : Input) : State := { State.reset with fsm := f, env := Env.silent.place i }

/-- A validated image of `size` bytes. -/
def validated (f : Fsm) (size : U32) (i : Input) : State :=
  { at_ f i with imgSize := size, imgMagic := Config.footerMagic, imgRev := 8#8 }

/-- A 32-byte answer that starts with byte `b`. -/
def bytesOf (b : Byte) : Vector Byte 32 := Vector.ofFn fun _ => b

/-! ## The generator's commands -/

/-- V-G2. -/
theorem test_crcNop : after (exec (.crcNop 0xFF#8) { State.reset with crc := 0x5A#8 }) State.crc = some 0x5A#8 := by
  decide +kernel
/-- V-G3. -/
theorem test_crcClear : after (exec (.crcClear 0#8) { State.reset with crc := 0xF4#8 }) State.crc = some 0x00#8 := by
  decide +kernel
/-- V-G12. -/
theorem test_crcUpdate : after (exec (.crcUpdate 0x34#8) { State.reset with crc := 0x12#8 }) State.crc = some 0xF2#8 := by
  decide +kernel
/-- V-G7: `din` equal to `crc`. -/
theorem test_crcUpdate_self : after (exec (.crcUpdate 0x07#8) { State.reset with crc := 0x07#8 }) State.crc = some 0x00#8 := by
  decide +kernel

/-! ## Steps of the sequencer -/

/-- V-V4, V-V5: the least and the largest image. -/
theorem test_validate_accepts :
    after (step (validated .validate 128#32 Input.silent)) State.fsm = some .idRead ∧
      after (step (validated .validate 131072#32 Input.silent)) State.fsm = some .idRead := by decide +kernel
/-- V-V1, V-V2, V-V3, V-V8. -/
theorem test_validate_rejects :
    after (step (validated .validate 0#32 Input.silent)) State.err = some .invalidImage ∧
      after (step (validated .validate 127#32 Input.silent)) State.err = some .invalidImage ∧
      after (step (validated .validate 131200#32 Input.silent)) State.err = some .invalidImage ∧
      after (step (validated .validate 0xFFFFFF80#32 Input.silent)) State.err = some .invalidImage := by decide +kernel
/-- V-V9: `"TS_UC_RA4M3"`. Its `SEQ_STATUS` is that of P4. -/
theorem test_validate_magic :
    after (step { validated .validate 256#32 Input.silent with imgMagic := Config.footerMagic.set 10 0x33#8 })
      (fun s => (s.err, s.seqStatus)) = some (.invalidImage, 0x00000173#32) := by decide +kernel
/-- V-R2: the minimum wins over equality. Its `SEQ_STATUS` is that of P6. -/
theorem test_gate_minimum_first :
    after (step { at_ .gate Input.silent with devRev := 6#16, imgRev := 6#8 }) (fun s => (s.fsm, s.seqStatus)) =
      some (.fail, 0x00000273#32) := by decide +kernel
/-- V-R4. Its `SEQ_STATUS` is that of P3. -/
theorem test_gate_up_to_date :
    after (step { at_ .gate Input.silent with devRev := 8#16, imgRev := 8#8 }) (fun s => (s.fsm, s.out, s.seqStatus)) =
      some (.upToDate, [.info .upToDate], 0x00000032#32) := by decide +kernel
/-- V-R8: a revision above 255 never equals an image revision. -/
theorem test_gate_wide_revision :
    after (step { at_ .gate Input.silent with devRev := 264#16, imgRev := 8#8 }) State.fsm = some .unlockBuild := by
  decide +kernel
/-- V-B15: a start outside `IDLE` has no effect, and the state's own step goes on. -/
theorem test_start_outside_idle :
    after (step { at_ .gate { Input.silent with ctl := 1#2 } with devRev := 9#16, imgRev := 8#8 }) State.fsm =
      some .unlockBuild := by decide +kernel
/-- V-B14. -/
theorem test_start :
    after (step (at_ .idle { Input.silent with ctl := 1#2, footer := ⟨256#32, 9#8, Config.footerMagic⟩ }))
      (fun s => (s.fsm, s.imgSize, s.imgRev)) = some (.validate, 256#32, 9#8) := by decide +kernel
/-- V-B16: `CTL` = 11 in `FAIL`. -/
theorem test_reset_wins :
    after (step { at_ .fail { Input.silent with ctl := 3#2 } with err := .deviceReportedError, exitCode := true })
      (fun s => (s.fsm, s.seqStatus)) = some (.idle, 0#32) := by decide +kernel
/-- V-B9: a read of an empty file. -/
theorem test_chunkRead_short :
    after (step (validated .chunkRead 128#32 Input.silent)) (fun s => (s.fsm, s.err)) = some (.fail, .ioError) := by
  decide +kernel
/-- A chunk of zero bytes (V-K3), read from a file of 128 zero bytes. -/
theorem test_chunkRead_full :
    after (step { validated .chunkRead 128#32 Input.silent with image := (List.range 128).map fun a => (a, 0#8) })
      (fun s => (s.fsm, s.crc, s.chunk.toList)) = some (.chunkWrite, 0#8, List.replicate 129 0#8) := by decide +kernel
/-- A read error after 100 bytes (V-B8). -/
theorem test_chunkRead_error :
    after (step { validated .chunkRead 128#32 { Input.silent with imgCut := some 100 } with
      image := (List.range 128).map fun a => (a, 0#8) }) (fun s => (s.fsm, s.err)) = some (.fail, .ioError) := by
  decide +kernel
/-- The example of R215. -/
theorem test_advance_goes_on :
    after (step (validated .advance 256#32 Input.silent)) (fun s => (s.fsm, s.offset, s.out)) =
      some (.chunkRead, 128#32, [.progress 128#32 256#32]) := by decide +kernel
/-- The example of R215, at the last chunk. -/
theorem test_advance_finishes :
    after (step { validated .advance 256#32 Input.silent with offset := 128#32 }) (fun s => (s.fsm, s.offset, s.out)) =
      some (.finalRead, 256#32, [.progress 0#32 256#32]) := by decide +kernel
/-- V-B10: the delays, each in its state. -/
theorem test_delays :
    after (step (at_ .unlockSettle Input.silent)) State.fsm = some .unlockStatus ∧
      after (step (at_ .chunkSettle Input.silent)) State.fsm = some .pollRead ∧
      after (step (at_ .pollDelay Input.silent)) State.fsm = some .pollRead ∧
      after (step (at_ .resetDelay Input.silent)) State.seqStatus = some 0x00000031#32 := by decide +kernel

/-! ## Steps with an answer of the transport -/

/-- V-R4's identity bytes, the same in both orders. -/
def identity : Vector Byte 32 := (bytesOf 0#8).set 30 0x09#8 |>.set 31 0x09#8

theorem revision_identity (o : RevOrder) : revision o 0x09#8 0x09#8 = 0x0909#16 := by cases o <;> decide

/-- R204: the two last bytes make the revision. -/
theorem test_idRead :
    after (step (at_ .idRead (answering (.ok identity)))) (fun s => (s.fsm, s.devRev)) = some (.gate, 0x0909#16) := by
  show some (Fsm.gate, revision Config.revOrder 0x09#8 0x09#8) = _
  rw [revision_identity]

/-- V-R12. -/
theorem test_idRead_fails :
    after (step (at_ .idRead (answering .fail))) (fun s => (s.fsm, s.err, s.errBus)) = some (.fail, .readFailed, true) := by
  rfl

/-- V-L1. -/
theorem test_unlockStatus_accepts (s : State) :
    after (ruleUnlockStatus { s with reply := some (.ok [statusEnc .unlocked]) }) (fun t => (t.fsm, t.offset)) =
      some (.chunkRead, 0#32) := by
  simp [ruleUnlockStatus, statusByte, after]

/-- V-L2: `WAIT` is rejected. -/
theorem test_unlockStatus_rejects (s : State) :
    after (ruleUnlockStatus { s with reply := some (.ok [statusEnc .wait]) }) (fun t => (t.fsm, t.err, t.errInfo)) =
      some (.fail, .unlockRejected, statusEnc .wait) := by
  simp [ruleUnlockStatus, statusByte, after]

/-- V-P1, V-P2. -/
theorem test_poll_accepts (s : State) :
    (pollVerdict none (statusEnc .inProc) s).fsm = .advance ∧ (pollVerdict none (statusEnc .done) s).fsm = .advance := by
  simp [pollVerdict]

/-- V-P5, V-P8. -/
theorem test_poll_rejects (s : State) :
    (pollVerdict none (statusEnc .crcErr) s).err = .deviceReportedError ∧
      (pollVerdict none (statusEnc .reset) s).errInfo = statusEnc .reset := by
  simp [pollVerdict]

/-- V-P10's limit: the third `WAIT` fails, and its increment is dropped (R262). -/
theorem test_poll_timeout :
    (pollVerdict (some 3) (statusEnc .wait) { State.reset with waitCount := 2 }).err = .pollTimeout ∧
      (pollVerdict (some 3) (statusEnc .wait) { State.reset with waitCount := 2 }).waitCount = 2 ∧
      (pollVerdict (some 3) (statusEnc .wait) { State.reset with waitCount := 1 }).waitCount = 2 := by
  simp [pollVerdict, pollExpired]

/-- R216: an error code at the final read is a warning. -/
theorem test_finalRead_warns :
    after (ruleFinalRead { State.reset with reply := some (.ok [statusEnc .crcErr]) })
      (fun t => (t.fsm, t.doneSeen, t.out)) = some (.resetWrite, false, [.info .doneWarn]) := by
  simp [ruleFinalRead, statusByte, after, exec, execOutInfo]

/-- V-B6: the reset byte is accepted. -/
theorem test_resetWrite :
    after (step (at_ .resetWrite (answering (.ok (bytesOf 0#8))))) State.fsm = some .resetDelay := by rfl

/-- V-B5, failing. -/
theorem test_chunkWrite_fails :
    after (step (at_ .chunkWrite (answering .fail))) (fun s => (s.fsm, s.err, s.errBus)) =
      some (.fail, .writeFailed, true) := by rfl

/-- P8 step 14: an unanswered read waits. -/
theorem test_pollRead_waits :
    after (step (at_ .pollRead Input.silent)) (fun s => (s.fsm, s.outstanding)) =
      some (.pollRead, some (.bus Config.devAddr descStatusRead [])) := by rfl

/-! ## Words presented to the block -/

/-- P5 step 2, as the first step after reset but for `crc`. -/
theorem test_fetch_crc :
    after (step ((State.reset).withFetchWord 16 0x231)) State.crc = some 0x97#8 := by decide +kernel
/-- V-G13. -/
theorem test_fetch_reserved :
    step (State.reset.withFetchWord 16 0x300) = .refused (.encoding .reservedCrcOp) := by rfl
theorem test_fetch_img :
    after (step (State.reset.withFetchWord 40 0x8000000080)) State.trace =
      some [.issue (.img 0x80#32 128), .answer (.image [])] := by decide +kernel
/-- V-B12. -/
theorem test_fetch_out : after (step (State.reset.withFetchWord 8 0b1001)) State.out = some [.info .doneWarn] := by
  decide +kernel

/-! ## The image memory -/

/-- Writing keeps the order; dropping a byte removes its entry. -/
theorem test_memory_update :
    Memory.update [(1, 7#8)] [(3, some 9#8), (2, some 8#8), (1, none)] = [(2, 8#8), (3, 9#8)] := by decide

/-! ## Witnesses: a state and operands that meet the hypotheses of each statement together -/

/-- The `op` bits of `CRC_CMD` at each used value, `din` at its largest. -/
theorem witness_crc_words :
    (0x0FF#10).extractLsb' 8 2 = 0#2 ∧ (0x1FF#10).extractLsb' 8 2 = 1#2 ∧ (0x2FF#10).extractLsb' 8 2 = 2#2 := by decide

theorem witness_GeneratorComputesCrc8 :
    ∀ i ∈ [Instr.crcUpdate 0x31#8, .crcNop 0xFF#8, .crcUpdate 0x32#8], ∃ x, i = .crcUpdate x ∨ i = .crcNop x := by simp

theorem witness_CrcIsLinear : [0x01#8, 0xFF#8].length = [0x80#8, 0x55#8].length := by decide

theorem witness_EncodeInvertsDecode : decode (.bus 0x181#9) = .ok .busChunkWrite := by rfl

/-- A reserved word, and an unused word of each other port. -/
theorem witness_UnusedWordsAreRefused :
    (0x3FF#10).extractLsb' 8 2 = 3#2 ∧ 0x0FF#9 ∉ [0x020#9, 0x001#9, 0x10D#9, 0x181#9, 0x101#9] ∧
      (0x7F00000000#40).extractLsb' 32 8 ≠ 128#8 ∧ (0x3#66).extractLsb' 0 2 = 3#2 ∧
      ((0xD#66).extractLsb' 0 2 = 1#2 ∧ (0xD#66).extractLsb' 2 2 = 3#2) := by decide
theorem witness_UnusedWordsAreRefused_step :
    let s := State.reset.withFetchWord 16 0x300
    s.port.rst = false ∧ s.port.unit = some (.crc 0x300#10) ∧
      decode (.crc 0x300#10) = .error .reservedCrcOp ∧ DecodeError.reservedCrcOp ≠ .noCommand := by decide

theorem witness_OperationsTouchOnlyTheirOwn :
    Instr.tmrPoll ≠ .ctlStart ∧ (∀ b, Instr.tmrPoll ≠ .ctlReset b) ∧ (∃ t, exec .tmrPoll State.reset = .next t) ∧
      (∀ d, Instr.tmrPoll ≠ .crcClear d ∧ Instr.tmrPoll ≠ .crcUpdate d) ∧ ∀ e : OutEvent, Instr.tmrPoll ≠ e.toInstr := by
  refine ⟨by decide, by simp, ⟨_, rfl⟩, by simp, ?_⟩
  intro e
  cases e <;> simp [OutEvent.toInstr]

/-- In the reset state every request may stand on its port, and so may the request that waits already. -/
theorem witness_ready (r : PortRequest) :
    State.reset.ready r = true ∧ ({ State.reset with outstanding := some r } : State).ready r = true := by
  simp [State.ready]

theorem witness_UnansweredRequestWaits :
    let s := at_ .unlockWrite Input.silent
    s.quiet = true ∧ s.transportRequest = some (.bus Config.devAddr descUnlockWrite s.ubuf.toList) ∧
      s.ready (.bus Config.devAddr descUnlockWrite s.ubuf.toList) = true ∧ s.port.bus = none := by
  refine ⟨rfl, rfl, ?_, rfl⟩
  simp [State.ready, at_]

/-- An image read in flight meets every hypothesis but that of the same read, and a delay in flight meets that one. -/
theorem witness_SecondRequestStops :
    ({ State.reset with outstanding := some (.img 0#32 128) } : State).outstanding = some (.img 0#32 128) ∧
      (∀ d f, PortRequest.img 0#32 128 ≠ .bus Config.devAddr d f) ∧ (∀ k, PortRequest.img 0#32 128 ≠ .tmr k) ∧
      PortRequest.img 0#32 128 ≠ .img 128#32 128 ∧ ∀ off, PortRequest.tmr .poll ≠ .img off 128 := by
  simp

/-- A file of 100 bytes and a read of 128: short, though no error cuts it. -/
theorem witness_ImageReadDeliversTheFile :
    let s := { State.reset with image := (List.range 100).map fun a => (a, 0#8) }
    99 < (s.imageBytes 0#32 128).length ∧ s.port.imgCut = none ∧ (s.imageBytes 0#32 128).length < 128 := by
  decide +kernel

theorem witness_StartLatchesTheFooter : (at_ .idle Input.silent).fsm = .idle ∧ (at_ .fail Input.silent).fsm ≠ .idle := by
  decide

theorem witness_ResetWinsOverTheStep : (at_ .pollRead { Input.silent with ctl := 3#2 }).port.rst = true := by decide

theorem witness_StepRunsThePresentedWord :
    let s := State.reset.withFetchWord 16 0x234
    s.port.rst = false ∧ s.port.unit = some (.crc 0x234#10) ∧ decode (.crc 0x234#10) = .ok (.crcUpdate 0x34#8) := by decide

theorem witness_StepRunsTheFetchedWord :
    decodeTableWord 16 0x10D = some .busUnlockWrite ∧ (Instr.busUnlockWrite = .ctlStart → State.reset.fsm = .idle) ∧
      decodeTableWord 8 0x1 ≠ some .ctlStart := by decide

theorem witness_StepRunsTheStatesOperation :
    (let s := at_ .idle { Input.silent with ctl := 1#2 };
      s.quiet = true ∧ s.fsm = .idle ∧ s.port.start = true) ∧
    (let s := at_ .pollDelay Input.silent;
      s.quiet = true ∧ s.fsm ≠ .idle ∧ stateOp s = some .tmrPoll) ∧
    (let s := at_ .gate Input.silent;
      s.quiet = true ∧ s.fsm ≠ .idle ∧ stateOp s = none) := by decide

theorem witness_IdleAndTerminalStatesStay :
    (let s := at_ .idle Input.silent;
      s.quiet = true ∧ s.fsm = .idle ∧ s.port.start = false) ∧
    (at_ .complete { Input.silent with ctl := 1#2 }).quiet = true ∧ (at_ .upToDate Input.silent).quiet = true ∧
      (at_ .fail Input.silent).quiet = true := by decide

/-- For each statement about a state without a transport request. -/
theorem witness_quiet (f : Fsm) : (at_ f Input.silent).quiet = true ∧ (at_ f Input.silent).fsm = f := by
  exact ⟨by simp [State.quiet, State.port, at_, Input.silent, Input.rst], rfl⟩

/-- For each statement about a state whose transport request is answered. -/
theorem witness_answered (f : Fsm) (r : PortRequest) (a : BusAnswer) :
    (at_ f (answering a)).quiet = true ∧ (at_ f (answering a)).fsm = f ∧ (at_ f (answering a)).ready r = true ∧
      (at_ f (answering a)).port.bus = some a := by
  refine ⟨?_, rfl, ?_, rfl⟩
  · simp [State.quiet, State.port, at_, answering, Input.silent, Input.rst]
  · simp [State.ready, at_]

theorem witness_WriteStatesGoOnOrFail (a : BusAnswer) :
    (at_ .unlockWrite (answering a)).transportRequest =
      some (.bus Config.devAddr descUnlockWrite (at_ .unlockWrite (answering a)).ubuf.toList) ∧
    (at_ .chunkWrite (answering a)).transportRequest =
      some (.bus Config.devAddr descChunkWrite (at_ .chunkWrite (answering a)).chunk.toList) ∧
    (at_ .resetWrite (answering a)).transportRequest =
      some (.bus Config.devAddr descResetWrite [statusEnc .reset]) := ⟨rfl, rfl, rfl⟩

/-- A short read of 127 bytes and a full one of 128. -/
theorem witness_ChunkReadSealsTheChunk :
    (let s := { at_ .chunkRead Input.silent with image := (List.range 127).map fun a => (a, 0#8) };
      s.quiet = true ∧ s.fsm = .chunkRead ∧ s.ready (.img s.offset 128) = true ∧ (s.imageBytes s.offset 128).length < 128) ∧
    (let s := { at_ .chunkRead Input.silent with image := (List.range 128).map fun a => (a, 0#8) };
      s.quiet = true ∧ s.fsm = .chunkRead ∧ s.ready (.img s.offset 128) = true ∧
        (s.imageBytes s.offset 128).length = 128) := by decide +kernel

theorem witness_TransitionsFollowTheTable :
    (at_ .gate Input.silent).quiet = true ∧ ∃ t, step (at_ .gate Input.silent) = .next t := ⟨rfl, _, rfl⟩

/-- A byte that is no code's encoding: the eleven codes do not fill the 256 bytes. -/
theorem witness_StatusBytesDecode : ∃ b : Byte, ∀ c, statusEnc c ≠ b := by
  refine ⟨Config.statusPerm 0xFF#8, fun c h => ?_⟩
  have h' : BitVec.ofNat 8 (StatusCode.position c) = 0xFF#8 := Config.statusPerm.injective h
  revert h'
  cases c <;> decide

/-! ## Witnesses of the invariants -/

/-- A state of the chunk transfer of a two-chunk image, at offset `off`, whose chunk is all zeros. -/
def transferring (f : Fsm) (off : U32) (env : Env) : State :=
  { State.reset with
    fsm := f
    imgSize := 256#32
    imgRev := 9#8
    imgMagic := Config.footerMagic
    idblk := identity
    devRev := revision Config.revOrder 0x09#8 0x09#8
    ubuf := bufOf 13 (unlockFrame Config.magicKey Config.flashLoc 256#32)
    offset := off
    env := env }

/-- No input of an environment that is silent but for `i` presents a word, if `i` does not. -/
theorem silent_noUnit : ∀ n, (Env.silent.input n).unit = none :=
  Env.input_of_forall (P := fun i => i.unit = none) (fun _ => rfl) (by simp) (by simp)

theorem place_noUnit {i : Input} (h : i.unit = none) : ∀ n, ((Env.silent.place i).input n).unit = none :=
  Env.input_of_forall (P := fun i => i.unit = none) (fun _ => rfl) (by simp [Env.silent, Env.next, h]) (by simp)

theorem repeats_noUnit {i : Input} (h : i.unit = none) : ∀ n, (Env.input ⟨[], .repeats [i]⟩ n).unit = none :=
  Env.input_of_forall (P := fun i => i.unit = none) (fun h => by cases h) (by simp) (by simp [h])

theorem crc_zero_chunk : crc8 State.reset.chunk.toList = 0x00#8 := by decide +kernel

theorem transferring_inv (f : Fsm) (off : U32) (env : Env) (hf : f.transferring = true)
    (hoff : off = 0#32 ∨ off = 128#32) (henv : ∀ n, (env.input n).unit = none) : Inv (transferring f off env) where
  noUnit := henv
  imageWf := rfl
  replyNone := rfl
  inFlight := .inl rfl
  imageGood := fun _ => ⟨rfl, show goodSize 256#32 = true by decide⟩
  revision := fun _ => rfl
  gatePassed := fun _ => by
    show Config.minRev ≤ revision Config.revOrder 0x09#8 0x09#8 ∧ revision Config.revOrder 0x09#8 0x09#8 ≠ (9#8).setWidth 16
    rw [revision_identity]
    decide
  upToDate := fun h => by
    have h : f = .upToDate := h
    rw [h] at hf
    cases hf
  unlockFrame := fun _ => bufOf_toList (by simp [unlockFrame, unlockFields, le32])
  offsetInside := fun _ => by
    show off.toNat % 128 = 0 ∧ off.toNat + 128 ≤ 256
    rcases hoff with rfl | rfl <;> decide
  offsetAtEnd := fun h => by
    have h : f.finalizing = true := h
    cases f <;> first | cases hf; done | cases h
  chunkSealed := fun _ => crc_zero_chunk
  failed := by
    have h : f ≠ .fail := by rintro rfl; cases hf
    show if f = .fail then _ else _
    rw [if_neg h]
    exact ⟨rfl, rfl, rfl⟩
  exitFail := by
    have h : f ≠ .fail := by rintro rfl; cases hf
    show false = true ↔ f = .fail
    simp [h]
  doneLate := fun h => by cases h
  outGood := fun e h => by cases h
  diagOnce := by
    have h : f ≠ .fail := by rintro rfl; cases hf
    show 0 = if f = .fail then 1 else 0
    rw [if_neg h]

/-- For `StepKeepsInv`, `StepNeverStops` and every statement with `Inv` as its only premise on the state. -/
theorem witness_inv :
    Inv (transferring .chunkWrite 128#32 (Env.silent.place (answering (.ok (bytesOf 0#8))))) ∧
      ∃ t, step (transferring .chunkWrite 128#32 (Env.silent.place (answering (.ok (bytesOf 0#8))))) = .next t :=
  ⟨transferring_inv _ _ _ rfl (.inr rfl) (place_noUnit rfl), _, rfl⟩

/-- The least and the largest offset of a two-chunk image. -/
theorem witness_inv_clauses :
    (Inv (transferring .chunkRead 0#32 Env.silent) ∧ (transferring .chunkRead 0#32 Env.silent).fsm = .chunkRead) ∧
      Inv (transferring .advance 128#32 Env.silent) ∧ (transferring .advance 128#32 Env.silent).fsm = .advance :=
  ⟨⟨transferring_inv _ _ _ rfl (.inl rfl) silent_noUnit, rfl⟩, transferring_inv _ _ _ rfl (.inr rfl) silent_noUnit, rfl⟩

theorem witness_FailureIsPrecise :
    let s := transferring .chunkWrite 128#32 (Env.silent.place (answering .fail))
    Inv s ∧ s.quiet = true ∧ s.fsm ≠ .fail ∧ ∃ t, step s = .next t ∧ t.fsm = .fail :=
  ⟨transferring_inv _ _ _ rfl (.inr rfl) (place_noUnit rfl), rfl, by decide, _, rfl, rfl⟩

theorem witness_IssuedOperationsAreWellFormed :
    let s := transferring .advance 0#32 Env.silent
    Inv s ∧ stateOp s = some (.outProgress 128#32 256#32) :=
  ⟨transferring_inv _ _ _ rfl (.inl rfl) silent_noUnit, rfl⟩

/-- One identity read, one unlock write and the first chunk write behind it, the second chunk about to be sent. -/
theorem witness_StepKeepsTheCounts :
    let s := { transferring .chunkWrite 128#32 Env.silent with
      trace := [.issue (.bus Config.devAddr descIdRead []), .issue (.bus Config.devAddr descUnlockWrite []),
        .issue (.bus Config.devAddr descChunkWrite [])] }
    Inv s ∧ CountsFit s ∧ ∃ t, step s = .next t := by
  have h := transferring_inv .chunkWrite 128#32 Env.silent rfl (.inr rfl) silent_noUnit
  exact ⟨⟨h.1, h.2, h.3, h.4, h.5, h.6, h.7, h.8, h.9, h.10, h.11, h.12, h.13, h.14, h.15, h.16, h.17⟩,
    ⟨rfl, rfl, rfl, rfl⟩, _, rfl⟩

/-- The first chunk of a zero image, about to be sent. -/
theorem witness_StepKeepsThePayload :
    let s := { transferring .chunkWrite 0#32 Env.silent with image := (List.range 128).map fun a => (a, 0#8) }
    Inv s ∧ PayloadInv s ∧ ∃ t, step s = .next t := by
  have h := transferring_inv .chunkWrite 0#32 Env.silent rfl (.inl rfl) silent_noUnit
  have hw : Memory.wf ((List.range 128).map fun a => (a, 0#8)) = true := by decide +kernel
  have hr : Memory.readRun ((List.range 128).map fun a => (a, 0#8)) 0 128 = List.replicate 128 0#8 := by decide +kernel
  have hc : State.reset.chunk.toList.take 128 = List.replicate 128 0#8 := by decide +kernel
  exact ⟨⟨h.1, hw, h.3, h.4, h.5, h.6, h.7, h.8, h.9, h.10, h.11, h.12, h.13, h.14, h.15, h.16, h.17⟩,
    ⟨Env.input_of_forall (P := fun i => i.imgSet = []) (fun _ => rfl) (by simp) (by simp), rfl, fun _ => hc.trans hr.symm, rfl⟩, _, rfl⟩

/-- A start just accepted, for the protocol and the history. -/
theorem witness_StepKeepsTheProtocol :
    let s := at_ .validate Input.silent
    Inv s ∧ ProtocolInv s ∧ ∃ t, step s = .next t := by
  refine ⟨?_, ⟨.start, rfl, rfl⟩, _, rfl⟩
  constructor
  case chunkSealed => intro h; cases h
  case noUnit => exact place_noUnit rfl
  all_goals simp [at_, Input.silent, Fsm.accepted, Fsm.identified, Fsm.gated, Fsm.built, Fsm.transferring, Fsm.finalizing]
  rfl

/-- An identity read answered, and the unlock request waiting. -/
theorem witness_OneRequestInFlight :
    let r := PortRequest.bus Config.devAddr descUnlockWrite (at_ .unlockWrite (answering .fail)).ubuf.toList
    let s := { at_ .unlockWrite (answering .fail) with
      outstanding := some r
      trace := [.issue (.bus Config.devAddr descIdRead []), .answer (.ok []), .issue r] }
    inFlightAfter (some none) s.trace = some s.outstanding ∧ ∃ t, step s = .next t := by
  intro r s
  have hr : s.ready r = true := by simp [State.ready, s]
  have h : sequencerStep s = andThen (transport descUnlockWrite s.ubuf.toList s) (stateRule .unlockWrite) := rfl
  rw [transport_of_ready hr] at h
  exact ⟨rfl, _, by
    rw [step_sequencer (by simp [State.quiet, State.port, at_, answering, Input.silent, Input.rst, s]) (.inl (by simp [s, at_])), h]
    rfl⟩

theorem witness_RequestsKeepTheirWidths :
    let s := { at_ .chunkRead Input.silent with trace := [.issue (.img 0#32 128), .answer (.image [])] }
    (∀ r, Event.issue r ∈ s.trace → r.lawful) ∧ ∃ t, step s = .next t := by
  exact ⟨by simp [PortRequest.lawful], _, rfl⟩

theorem witness_ImageMemoryStaysCanonical :
    (at_ .gate Input.silent).image.wf = true ∧ (∃ t, step (at_ .gate Input.silent) = .next t) ∧
      (at_ .gate Input.silent).port.imgSet = [] := ⟨rfl, ⟨_, rfl⟩, rfl⟩

/-- Two states that differ in `offset` and `chunk` before these are written. -/
theorem witness_UnwrittenRegistersAreNotRead :
    let s := at_ .idRead Input.silent
    AgreeOnWritten s { s with offset := 5#32, st := 9#8 } ∧ s.port.unit = none ∧ ∃ t, step s = .next t := by
  refine ⟨⟨rfl, fun _ _ => ⟨rfl, rfl, rfl⟩, fun h => ?_, fun h => ?_, fun h => ?_, fun h => ?_⟩, rfl, _, rfl⟩ <;> cases h

/-- A device that answers `WAIT` for ever. -/
theorem witness_WaitRepliesHoldTheBlock :
    let s := transferring .pollRead 128#32 ⟨[], .repeats [answering (.ok (bytesOf (statusEnc .wait)))]⟩
    Inv s ∧ s.fsm = .pollRead ∧ ∀ n, (s.env.input n).rst = false ∧ (s.env.input n).saysWait = true := by
  refine ⟨transferring_inv _ _ _ rfl (.inr rfl) (repeats_noUnit rfl), rfl, ?_⟩
  refine Env.input_of_forall (P := fun i => i.rst = false ∧ i.saysWait = true) (fun h => by cases h) (by simp) ?_
  simp only [List.mem_singleton, forall_eq]
  exact ⟨rfl, by simp [Input.saysWait, answering, bytesOf]⟩

/-- A device that answers every second step, and then `IN_PROC`: 10262 steps are enough, in `POLL_READ` and in `IDLE` with a
start. -/
theorem witness_AnsweredRunsEnd :
    let i := { answering (.ok (bytesOf (statusEnc .inProc))) with ctl := 1#2 }
    let s := transferring .pollRead 128#32 ⟨[], .repeats [i, Input.silent]⟩
    let u := { State.reset with env := s.env }
    Inv s ∧ s.fsm ≠ .idle ∧ Inv u ∧ u.port.start = true ∧ (∀ k < 10262, (s.env.input k).rst = false) ∧
      runBound Config.pollLimit (s.env.first 10262) ≤ 10262 := by
  intro i s u
  have h : ∀ n, (s.env.input n).unit = none ∧ (s.env.input n).rst = false ∧ (s.env.input n).saysWait = false := by
    refine Env.input_of_forall (P := fun i => i.unit = none ∧ i.rst = false ∧ i.saysWait = false) (fun h => by cases h) (by simp) ?_
    simp [Input.saysWait, Input.rst, answering, bytesOf, i, Input.silent]
  have hw : (s.env.first 10262).countP Input.saysWait = 0 := by
    rw [List.countP_eq_zero]
    intro i hi
    obtain ⟨k, -, rfl⟩ := Env.mem_first.mp hi
    simp [(h k).2.2]
  have hl : ∀ n, (s.env.first (2 * n)).countP Input.late = n := by
    have hi : i.late = false := rfl
    have hn : Input.silent.late = true := rfl
    have hloop : ∀ n (listed : List Input), listed = [] ∨ listed = [i, Input.silent] →
        ((Env.mk listed (.repeats [i, Input.silent])).first (2 * n)).countP Input.late = n := by
      intro n
      induction n with
      | zero => intro _ _; rfl
      | succ n ih => rintro _ (rfl | rfl) <;> simp [Nat.mul_succ, hi, hn, ih]
    exact fun n => hloop n [] (.inl rfl)
  refine ⟨transferring_inv _ _ _ rfl (.inr rfl) (fun n => (h n).1), by decide, ?_, ?_, fun k _ => (h k).2.1, ?_⟩
  · constructor
    case noUnit => exact fun n => (h n).1
    case chunkSealed => intro h; cases h
    all_goals simp [u, Fsm.accepted, Fsm.identified, Fsm.gated, Fsm.built, Fsm.transferring, Fsm.finalizing]
    rfl
  · simp [u, s, i, transferring, State.port, Input.start]
  · have hb := waitBound_le Config.pollLimit (s.env.first 10262)
    have hl : (s.env.first 10262).countP Input.late = 5131 := hl 5131
    simp only [runBound]
    omega

/-- A device that answers `WAIT` for ever under a `POLL_LIMIT` of `some m`: these steps are enough, and one more for each without
an answer. -/
theorem witness_AnsweredRunsEnd_limit (m : Nat) (inputs : List Input) :
    runBound (some m) inputs ≤ 5131 + 2048 * m + inputs.countP Input.late := by
  have := waitBound_le_limit m inputs
  simp only [runBound]
  omega

/-- After the listed inputs the repeated ones stand on the ports one after another, over and over. -/
theorem test_env_repeats :
    let i := answering .fail
    let e : Env := ⟨[Input.silent], .repeats [i, Input.silent]⟩
    e.now = Input.silent ∧ e.input 1 = i ∧ e.input 2 = Input.silent ∧ e.input 3 = i ∧ e.next.next.later = e.later := by
  decide

end Sys2Proof.Tests
end

section
/-! SUPPORT. The statements about the operand encodings and the delays: the status byte (R112), byte order (R21, R122), and
the timer's operations (R114, R178 to R181). -/

namespace Sys2Proof.Machine

/-! ## The status byte -/

/-- A byte that is no code's encoding decodes to itself as `Unknown` (R112). -/
theorem decodeStatus_eq_unknown {b : Byte} (h : ∀ c, statusEnc c ≠ b) : decodeStatus b = .unknown b := by
  have hfind : allStatusCodes.find? (fun c => statusEnc c == b) = none :=
    List.find?_eq_none.mpr fun c _ => by simpa using h c
  rw [decodeStatus, decodeStatusWith, hfind]

/-- Settles O45: the encoding is injective, and the search through the eleven codes finds the one whose byte is given. -/
theorem statusBytesDecode : Obligations.StatusBytesDecode :=
  ⟨fun _ _ => statusEnc_injective, fun _ _ => decodeStatus_eq_code, fun _ => decodeStatus_eq_unknown⟩

/-! ## Byte order -/

/-- The sum of a list's bytes, each weighed by its place, is the number whose digits they are, the least first. -/
theorem sum_weighed_bytes (base : Nat) (bytes : List Byte) :
    (bytes.zipIdx.map fun p => p.1.toNat * base ^ p.2).sum = Nat.ofDigits base (bytes.map BitVec.toNat) := by
  rw [Nat.ofDigits_eq_sum_mapIdx, List.mapIdx_eq_zipIdx_map, List.zipIdx_map, List.map_map]
  rfl

/-- The bytes of `le32` are the base-256 digits of the word (R21). -/
theorem ofDigits_le32 (v : U32) : Nat.ofDigits 256 ((le32 v).map BitVec.toNat) = v.toNat := by
  have hv := v.isLt
  simp only [le32, List.map_cons, List.map_nil, Nat.ofDigits_cons, Nat.ofDigits_nil, BitVec.extractLsb'_toNat,
    Nat.shiftRight_eq_div_pow]
  omega

/-- One byte shifted above another, as R122 joins them, is a two-digit number in base 256. -/
theorem toNat_shifted_or (hi lo : Byte) :
    (hi.setWidth 16 <<< 8 ||| lo.setWidth 16).toNat = hi.toNat * 256 + lo.toNat := by
  have hjoin : hi.setWidth 16 <<< 8 ||| lo.setWidth 16 = hi ++ lo := by
    rw [BitVec.append_def, BitVec.shiftLeftZeroExtend_eq, BitVec.setWidth'_eq]
  rw [hjoin, BitVec.toNat_append, ← Nat.shiftLeft_add_eq_or_of_lt lo.isLt, Nat.shiftLeft_eq]

theorem revision_be_toNat (b30 b31 : Byte) : (revision .be b30 b31).toNat = b30.toNat * 256 + b31.toNat :=
  toNat_shifted_or b30 b31

theorem revision_le_toNat (b30 b31 : Byte) : (revision .le b30 b31).toNat = b31.toNat * 256 + b30.toNat :=
  toNat_shifted_or b31 b30

/-- Settles O46: `le32` is the word's digits in base 256, and either order of the revision joins two bytes. -/
theorem operandsAreAssembled : Obligations.OperandsAreAssembled :=
  ⟨fun _ => rfl, fun v => (sum_weighed_bytes 256 (le32 v)).trans (ofDigits_le32 v),
    revision_be_toNat, revision_le_toNat⟩

/-! ## Delays -/

/-- A delay whose request may stand on the timer port is issued and answered in one step (R201, R306). -/
theorem delay_of_ready {s : State} {k : TimerKind} (h : s.ready (.tmr k)) :
    delay k s = .next ((s.issued (.tmr k)).answered .timer) :=
  delay_eq_next.mpr ⟨h, rfl⟩

/-- Settles O18: each of the four words selects its operation, and each operation is the delay of its kind. -/
theorem delaysComplete : Obligations.DelaysComplete :=
  ⟨rfl, rfl, rfl, rfl, fun _ => ⟨delay_of_ready, delay_of_ready, delay_of_ready, delay_of_ready⟩⟩

end Sys2Proof.Machine
end

section
/-! SUPPORT. The statements about the CRC-8 generator (R145 to R156): the table is the bitwise division, both are linear over
exclusive or, and 0x00 is the only index whose entry is 0x00. -/

namespace Sys2Proof.Machine

/-! ## The bitwise step -/

/-- Exclusive or of two pairs, regrouped by place. -/
theorem xor_xor_xor_comm (a b c d : Byte) : a ^^^ b ^^^ (c ^^^ d) = a ^^^ c ^^^ (b ^^^ d) := by ac_rfl

/-- The bit shifted out of `a ^ b` calls for the polynomial when it does for one of `a` and `b`; for both, the two cancel. -/
theorem crcShift_xor (a b : Byte) : crcShift (a ^^^ b) = crcShift a ^^^ crcShift b := by
  cases ha : a.getLsbD 7 <;> cases hb : b.getLsbD 7 <;>
    simp only [crcShift, BitVec.getLsbD_xor, BitVec.shiftLeft_xor_distrib, ha, hb, Bool.xor_false, Bool.xor_true, Bool.not_false,
      Bool.not_true, Bool.false_eq_true, if_true, if_false]
  case false.true => ac_rfl
  case true.false => ac_rfl
  case true.true => rw [xor_xor_xor_comm, BitVec.xor_self, BitVec.xor_zero]

theorem crcByteStep_xor (a b c d : Byte) : crcByteStep (a ^^^ b) (c ^^^ d) = crcByteStep a c ^^^ crcByteStep b d := by
  simp only [crcByteStep, xor_xor_xor_comm a b c d, crcShift_xor]

/-- The step looks at its register and its byte through their exclusive or alone (R145). -/
theorem crcByteStep_eq_crcByteStep_zero (c b : Byte) : crcByteStep c b = crcByteStep 0x00#8 (c ^^^ b) := by
  simp only [crcByteStep, BitVec.zero_xor]

/-! ## The table -/

/-- Each of the 256 listed entries is the bitwise step from 0x00 (R146). -/
theorem crcT_eq_crcByteStep : ∀ i : Byte, crcT i = crcByteStep 0x00#8 i := by decide +kernel

/-- The table form is the bit form (R148). -/
theorem crcT_xor_eq_crcByteStep (c b : Byte) : crcT (c ^^^ b) = crcByteStep c b := by
  rw [crcT_eq_crcByteStep, ← crcByteStep_eq_crcByteStep_zero]

theorem crcT_xor (a b : Byte) : crcT (a ^^^ b) = crcT a ^^^ crcT b := by
  simp only [crcT_eq_crcByteStep, ← crcByteStep_xor, BitVec.xor_zero]

/-- The entry 0x00 stands at index 0x00 alone. -/
theorem crcT_eq_zero_iff : ∀ i : Byte, crcT i = 0x00#8 ↔ i = 0x00#8 := by decide +kernel

/-- Settles O3: the entries are the steps from 0x00, and a step depends on the exclusive or of its operands alone. -/
theorem crcTableIsBitwiseDivision : Obligations.CrcTableIsBitwiseDivision :=
  ⟨crcT_eq_crcByteStep, fun c b => (crcT_xor_eq_crcByteStep c b).symm⟩

/-! ## A sequence of bytes -/

theorem crcRun_cons (c b : Byte) (bytes : List Byte) : crcRun c (b :: bytes) = crcRun (crcT (c ^^^ b)) bytes := rfl

theorem crcRun_concat (c b : Byte) (bytes : List Byte) : crcRun c (bytes ++ [b]) = crcT (crcRun c bytes ^^^ b) :=
  List.foldl_concat ..

theorem crcRun_xor (c d : Byte) {A B : List Byte} (h : A.length = B.length) :
    crcRun (c ^^^ d) (List.zipWith (· ^^^ ·) A B) = crcRun c A ^^^ crcRun d B := by
  induction A generalizing c d B with
  | nil =>
    obtain rfl := List.length_eq_zero_iff.mp h.symm
    rfl
  | cons a A ih =>
    obtain ⟨b, B, rfl⟩ := List.exists_cons_of_length_eq_add_one h.symm
    simp only [List.zipWith_cons_cons, crcRun_cons, xor_xor_xor_comm c d a b, crcT_xor]
    exact ih _ _ (Nat.succ.inj h)

theorem crc8_xor {A B : List Byte} (h : A.length = B.length) :
    crc8 (List.zipWith (· ^^^ ·) A B) = crc8 A ^^^ crc8 B := by
  simp only [crc8_eq_crcRun, ← crcRun_xor _ _ h, BitVec.xor_self]

/-- Zero bytes are their own exclusive or with themselves, so their CRC is too (R156). -/
theorem crc8_replicate_zero (n : Nat) : crc8 (List.replicate n 0x00#8) = 0x00#8 := by
  have hself : crc8 (List.zipWith (· ^^^ ·) (List.replicate n 0x00#8) (List.replicate n 0x00#8)) = 0x00#8 :=
    (crc8_xor rfl).trans BitVec.xor_self
  rwa [List.zipWith_replicate', BitVec.xor_self] at hself

/-- Settles O6: each byte's entry is linear over exclusive or, and an induction carries this through the sequence. -/
theorem crcIsLinear : Obligations.CrcIsLinear :=
  ⟨rfl, crc8_replicate_zero, fun _ _ => crc8_xor⟩

/-- A sequence is sealed by its last byte exactly when its CRC is 0x00 (R155). -/
theorem crc8_concat_eq_zero_iff (bytes : List Byte) (b : Byte) : crc8 (bytes ++ [b]) = 0x00#8 ↔ b = crc8 bytes := by
  rw [crc8_eq_crcRun, crcRun_concat, crcT_eq_zero_iff, ← crc8_eq_crcRun, BitVec.xor_eq_zero_iff, eq_comm]

theorem chunk_toList_eq_concat (chunk : Vector Byte 129) : chunk.toList = chunk.toList.take 128 ++ [chunk[128]] := by
  have hlen : chunk.toList.length = 129 := Vector.length_toList
  rw [← Vector.getElem_toList (by omega), ← List.take_succ_eq_append_getElem, List.take_of_length_le hlen.le]

/-- Settles O5: the last update's entry is 0x00 exactly when the byte appended equals the register before it. -/
theorem appendedCrcCancels : Obligations.AppendedCrcCancels := by
  refine ⟨fun B => (crc8_concat_eq_zero_iff B _).mpr rfl, fun chunk => ?_⟩
  rw [← crc8_concat_eq_zero_iff, ← chunk_toList_eq_concat]

/-! ## The generator's commands -/

theorem decodeCrc_nop {w : BitVec 10} (h : w.extractLsb' 8 2 = 0#2) : decodeCrc w = .ok (.crcNop (w.extractLsb' 0 8)) :=
  if_pos h

theorem decodeCrc_clear {w : BitVec 10} (h : w.extractLsb' 8 2 = 1#2) : decodeCrc w = .ok (.crcClear (w.extractLsb' 0 8)) := by
  simp [decodeCrc, h]

theorem decodeCrc_update {w : BitVec 10} (h : w.extractLsb' 8 2 = 2#2) : decodeCrc w = .ok (.crcUpdate (w.extractLsb' 0 8)) := by
  simp [decodeCrc, h]

theorem exec_crcNop (din : Byte) (s : State) : exec (.crcNop din) s = .next s := rfl

theorem exec_crcClear (din : Byte) (s : State) : exec (.crcClear din) s = .next { s with crc := 0x00#8 } := rfl

theorem exec_crcUpdate (din : Byte) (s : State) : exec (.crcUpdate din) s = .next { s with crc := crcT (s.crc ^^^ din) } := rfl

/-- Settles O1: `op` selects the operation, and neither operation's meaning looks at `din`. -/
theorem crcNopAndClear : Obligations.CrcNopAndClear :=
  ⟨fun _ => ⟨decodeCrc_nop, decodeCrc_clear⟩, fun din s => ⟨exec_crcNop din s, exec_crcClear din s⟩⟩

/-- Settles O2: the update writes the table's entry, which is the bitwise step. -/
theorem crcUpdateFoldsOneByte : Obligations.CrcUpdateFoldsOneByte := by
  refine ⟨fun _ => decodeCrc_update, fun din s => ⟨exec_crcUpdate din s, ?_⟩⟩
  rw [← crcT_xor_eq_crcByteStep, exec_crcUpdate]

end Sys2Proof.Machine
end

section
/-! SUPPORT. The statement about the host's start command (R185). -/

namespace Sys2Proof.Machine

/-- The word with `start` alone high is the start (R115). -/
theorem decode_ctl_start : decode (.ctl 1#2) = .ok .ctlStart := rfl

theorem exec_ctlStart_of_idle {s : State} (h : s.fsm = .idle) :
    exec .ctlStart s = .next { s with
      imgSize := s.port.footer.binSize, imgRev := s.port.footer.revision, imgMagic := s.port.footer.magic,
      fsm := .validate } :=
  if_pos h

theorem exec_ctlStart_of_not_idle {s : State} (h : s.fsm ≠ .idle) : exec .ctlStart s = .next s :=
  if_neg h

/-- Settles O20: the command asks for `IDLE` alone, latches the footer there and leaves every other state as it is. -/
theorem startLatchesTheFooter : Obligations.StartLatchesTheFooter :=
  ⟨decode_ctl_start, fun _ => ⟨exec_ctlStart_of_idle, exec_ctlStart_of_not_idle⟩⟩

end Sys2Proof.Machine
end

section
/-! SUPPORT. Progress of the sequencer (R201): every rule answers a next state, so a step stops only at its port operation. With
it the laws of the sequencer, which start from an answered step, say what the step answers. -/

namespace Sys2Proof.Machine

/-! ## Every rule answers -/

/-- The four checks of R203, one after another, are one condition. -/
theorem ruleValidate_eq (s : State) : ruleValidate s = .next
    (if s.imgMagic = Config.footerMagic ∧ goodSize s.imgSize = true then { s with fsm := .idRead }
      else s.raiseFatal .invalidImage 0#8 false) := by
  simp only [goodSize_iff]
  unfold ruleValidate Config.maxImage Config.chunkSize
  split
  next hmagic => rw [if_neg fun h => hmagic h.1]
  split
  next hzero => rw [if_neg (by omega)]
  split
  next hmax => rw [if_neg (by omega)]
  split
  next hmod => rw [if_neg (by omega)]
  next hmagic hzero hmax hmod => rw [if_pos ⟨not_not.mp hmagic, by omega⟩]

theorem ruleIdRead_next (s : State) : ∃ u, ruleIdRead s = .next u := by
  unfold ruleIdRead
  split <;> exact ⟨_, rfl⟩

theorem ruleGate_next (s : State) : ∃ u, ruleGate s = .next u := by
  unfold ruleGate
  split_ifs <;> exact ⟨_, rfl⟩

theorem ruleUnlockBuild_next (s : State) : ∃ u, ruleUnlockBuild s = .next u := by
  simp [ruleUnlockBuild, crcBlock_eq]

theorem ruleWritten_next (f : Fsm) (s : State) : ∃ u, ruleWritten f s = .next u := by
  unfold ruleWritten
  split <;> exact ⟨_, rfl⟩

theorem ruleUnlockStatus_next (s : State) : ∃ u, ruleUnlockStatus s = .next u := by
  unfold ruleUnlockStatus
  split
  · exact ⟨_, rfl⟩
  · dsimp only
    split_ifs <;> exact ⟨_, rfl⟩
  · exact ⟨_, rfl⟩

theorem ruleChunkRead_next (s : State) : ∃ u, ruleChunkRead s = .next u := by
  unfold ruleChunkRead
  split
  · split_ifs
    · exact ⟨_, rfl⟩
    · rw [crcBlock_eq]
      exact ⟨_, rfl⟩
  · exact ⟨_, rfl⟩

theorem rulePollRead_next (s : State) : ∃ u, rulePollRead s = .next u := by
  unfold rulePollRead
  split <;> exact ⟨_, rfl⟩

theorem ruleFinalRead_next (s : State) : ∃ u, ruleFinalRead s = .next u := by
  unfold ruleFinalRead
  split <;> exact ⟨_, rfl⟩

theorem stateRule_next (f : Fsm) (s : State) : ∃ u, stateRule f s = .next u := by
  cases f with
  | idle | complete | upToDate | fail => exact ⟨s, rfl⟩
  | unlockSettle | chunkSettle | pollDelay | resetDelay | advance => exact ⟨_, rfl⟩
  | validate => exact ⟨_, ruleValidate_eq s⟩
  | idRead => exact ruleIdRead_next s
  | gate => exact ruleGate_next s
  | unlockBuild => exact ruleUnlockBuild_next s
  | unlockWrite | chunkWrite | resetWrite => exact ruleWritten_next _ s
  | unlockStatus => exact ruleUnlockStatus_next s
  | chunkRead => exact ruleChunkRead_next s
  | pollRead => exact rulePollRead_next s
  | finalRead => exact ruleFinalRead_next s

/-! ## A step that answers -/

theorem sequencerStep_of_no_op {s : State} (hop : stateOp s = none) : sequencerStep s = stateRule s.fsm s := by
  simp only [sequencerStep, hop]

theorem sequencerStep_of_op {s t : State} {i : Instr} (hop : stateOp s = some i) (he : exec i s = .next t) :
    sequencerStep s = stateRule s.fsm t := by
  simp only [sequencerStep, hop, he, andThen_next]

/-- `IDLE` issues nothing. -/
theorem fsm_ne_idle_of_op {s : State} {i : Instr} (hop : stateOp s = some i) : s.fsm ≠ .idle := by
  intro hf
  simp [stateOp, hf] at hop

/-- Each transport state issues its request through its bus operation (R186). -/
theorem exec_of_transportRequest {s : State} {r : PortRequest} (h : s.transportRequest = some r) :
    ∃ i d frame, stateOp s = some i ∧ exec i s = transport d frame s ∧ r = .bus Config.devAddr d frame := by
  unfold State.transportRequest at h
  unfold stateOp
  split at h
  case h_8 => cases h
  all_goals
    next hf =>
    obtain rfl := Option.some.inj h
    simp only [hf]
    exact ⟨_, _, _, rfl, rfl, rfl⟩

/-- A quiet step outside `IDLE`, where the sequencer answers: the only state its law allows. -/
theorem step_of_sequencer {s v : State} (hq : s.quiet = true) (hf : s.fsm ≠ .idle) (hn : ∃ u, sequencerStep s = .next u)
    (law : ∀ u, sequencerStep s = .next u → u = v) : step s = .next v.endStep := by
  obtain ⟨u, hu⟩ := hn
  rw [step_sequencer hq (.inl hf), hu, andThen_next, law u hu]

/-- A state without a port operation. -/
theorem step_of_no_op {s v : State} (hq : s.quiet = true) (hf : s.fsm ≠ .idle) (hop : stateOp s = none)
    (law : ∀ u, sequencerStep s = .next u → u = v) : step s = .next v.endStep :=
  step_of_sequencer hq hf (sequencerStep_of_no_op hop ▸ stateRule_next _ _) law

/-- A state whose port operation answers. -/
theorem step_of_op {s t v : State} {i : Instr} (hq : s.quiet = true) (hop : stateOp s = some i) (he : exec i s = .next t)
    (law : ∀ u, sequencerStep s = .next u → u = v) : step s = .next v.endStep :=
  step_of_sequencer hq (fsm_ne_idle_of_op hop) (sequencerStep_of_op hop he ▸ stateRule_next _ _) law

/-- A delay state, where its request may stand on the timer port. -/
theorem step_of_delay {s v : State} {i : Instr} {k : TimerKind} (hq : s.quiet = true) (hop : stateOp s = some i)
    (he : exec i s = delay k s) (hr : s.ready (.tmr k) = true) (law : ∀ u, sequencerStep s = .next u → u = v) :
    step s = .next v.endStep :=
  step_of_op hq hop (he.trans (delay_of_ready hr)) law

/-- A transport state, where its request may stand on the bus. -/
theorem step_of_transport {s v : State} {r : PortRequest} (hq : s.quiet = true) (ht : s.transportRequest = some r)
    (hr : s.ready r = true) (law : ∀ u, sequencerStep s = .next u → u = v) : step s = .next v.endStep := by
  obtain ⟨i, d, frame, hop, he, rfl⟩ := exec_of_transportRequest ht
  exact step_of_op hq hop (he.trans (transport_of_ready hr)) law

/-- Of the three cases of a transport state's law, two are left when the transport answers. -/
theorem answer_cases {s : State} {a : BusAnswer} {waits fails : Prop} {goesOn : Vector Byte 32 → Prop}
    (hb : s.port.bus = some a)
    (h : s.port.bus = none ∧ waits ∨ s.port.bus = some .fail ∧ fails ∨ ∃ v, s.port.bus = some (.ok v) ∧ goesOn v) :
    a = .fail ∧ fails ∨ ∃ v, a = .ok v ∧ goesOn v := by
  simpa [hb] using h

end Sys2Proof.Machine
end

section
/-! SUPPORT. The statements about the sequencer's rules (R203 to R218): each is the law of its state in a step that is known to
answer. -/

namespace Sys2Proof.Machine

/-! ## The internal states -/

/-- Settles O29: the literal tag is `footerMagic`, and the three bounds are `goodSize`. -/
theorem validateChecksTheImage : Obligations.ValidateChecksTheImage := by
  intro s hq hf
  have hstep : sequencerStep s = ruleValidate s := by rw [sequencerStep_of_no_op (by rw [stateOp, hf]), hf, stateRule]
  rw [step_sequencer hq (.inl (by simp [hf])), hstep, ruleValidate_eq, andThen_next]
  simp only [goodSize_iff, Nat.pos_iff_ne_zero]
  rfl

/-- The gate's minimum as a number (R205). -/
theorem lt_minRev_iff {rev : U16} : rev < Config.minRev ↔ rev.toNat < 7 := Iff.rfl

/-- R123: the device's revision and the image's are compared as numbers. -/
theorem eq_setWidth_iff {rev : U16} {img : Byte} : rev = img.setWidth 16 ↔ rev.toNat = img.toNat := by
  rw [← BitVec.toNat_inj, BitVec.toNat_setWidth_of_le (by omega)]

/-- Settles O31: the law's three cases are the chain's three branches, with the revisions compared as numbers. -/
theorem gateComparesRevisions : Obligations.GateComparesRevisions := by
  intro s hq hf
  refine step_of_no_op hq (by simp [hf]) (by rw [stateOp, hf]) fun u hu => ?_
  simp only [← lt_minRev_iff, ← eq_setWidth_iff]
  obtain ⟨hlow, rfl⟩ | ⟨hmin, heq, rfl⟩ | ⟨hmin, hne, rfl⟩ := sequencer_gate hf hu
  · rw [if_pos hlow]
  · rw [if_neg (BitVec.not_lt.mpr hmin), if_pos heq]
    rfl
  · rw [if_neg (BitVec.not_lt.mpr hmin), if_neg hne]

/-- Settles O32: the buffer has room for exactly the twelve bytes and their CRC. -/
theorem unlockBuildSealsTheRequest : Obligations.UnlockBuildSealsTheRequest := by
  intro s hq hf
  exact ⟨_, step_of_no_op hq (by simp [hf]) (by rw [stateOp, hf]) fun _ => sequencer_unlockBuild hf,
    rfl, bufOf_toList rfl, rfl, rfl⟩

/-- Settles O38: the law of `ADVANCE`, and the invariant's bound on `offset` for the sum. -/
theorem advanceCountsTheChunk : Obligations.AdvanceCountsTheChunk := by
  refine ⟨fun s hinv hf => ?_, fun s hq hf => ?_⟩
  · obtain ⟨-, hend⟩ := hinv.offsetInside (by rw [hf]; rfl)
    have hsum : (s.offset + 128#32).toNat = s.offset.toNat + 128 := nextOffset_toNat hend
    exact ⟨hsum, hsum.trans_le hend⟩
  · exact step_of_op hq (by rw [stateOp, hf]) rfl fun _ => sequencer_advance hf

/-! ## The delay states -/

/-- Settles O34: the timer answers in the step, and each state's law says where it goes on. -/
theorem delayStatesGoOn : Obligations.DelayStatesGoOn := by
  refine fun s hq => ⟨fun hf hr => ?_, fun hf hr => ?_, fun hf hr => ?_, fun hf hr => ?_⟩
  · exact step_of_delay hq (by rw [stateOp, hf]) rfl hr fun _ hu => (sequencer_unlockSettle hf hu).2
  · exact step_of_delay hq (by rw [stateOp, hf]) rfl hr fun _ hu => (sequencer_chunkSettle hf hu).2
  · exact step_of_delay hq (by rw [stateOp, hf]) rfl hr fun _ hu => (sequencer_pollDelay hf hu).2
  · exact step_of_delay hq (by rw [stateOp, hf]) rfl hr fun _ hu => (sequencer_resetDelay hf hu).2

/-! ## The image read -/

theorem sequencer_chunkRead_short {s u : State} (hf : s.fsm = .chunkRead) (hshort : (s.imageBytes s.offset 128).length < 128)
    (h : sequencerStep s = .next u) :
    u = ((s.issued (.img s.offset 128)).answered (.image (s.imageBytes s.offset 128))).raiseFatal .ioError 0#8 false := by
  obtain ⟨-, ⟨-, e⟩ | ⟨hlong, -⟩⟩ := sequencer_chunkRead hf h
  · exact e
  · exact absurd hshort hlong

theorem sequencer_chunkRead_full {s u : State} (hf : s.fsm = .chunkRead) (hfull : (s.imageBytes s.offset 128).length = 128)
    (h : sequencerStep s = .next u) :
    u = { (s.issued (.img s.offset 128)).answered (.image (s.imageBytes s.offset 128)) with
      crc := crc8 (s.imageBytes s.offset 128)
      chunk := bufOf 129 (s.imageBytes s.offset 128 ++ [crc8 (s.imageBytes s.offset 128)])
      waitCount := 0
      fsm := .chunkWrite } := by
  obtain ⟨-, ⟨hshort, -⟩ | ⟨-, e⟩⟩ := sequencer_chunkRead hf h
  · exact absurd hfull hshort.ne
  · exact e

/-- Settles O36: the read is answered in its step, short or full, and 128 bytes with their CRC fill the buffer. -/
theorem chunkReadSealsTheChunk : Obligations.ChunkReadSealsTheChunk := by
  refine ⟨fun s hinv hf => ?_, fun s d hq hf hr hd => ?_⟩
  · obtain ⟨haligned, hend⟩ := hinv.offsetInside (by rw [hf]; rfl)
    exact ⟨haligned, by omega⟩
  · subst hd
    have hop : stateOp s = some (.imgRead s.offset) := by rw [stateOp, hf]
    have hread : exec (.imgRead s.offset) s = .next _ := memRead_eq_next.mpr ⟨hr, rfl⟩
    refine ⟨fun hshort => ?_, fun hfull => ?_⟩
    · exact step_of_op hq hop hread fun _ => sequencer_chunkRead_short hf hshort
    · exact ⟨_, step_of_op hq hop hread fun _ => sequencer_chunkRead_full hf hfull, bufOf_toList (by simp [hfull]), rfl⟩

/-! ## The transport states -/

/-- Settles O30: with the transport's answer given, the law leaves its failure and its read. -/
theorem idReadTakesTheRevision : Obligations.IdReadTakesTheRevision := by
  intro s a hq hf hr hb
  refine step_of_transport hq (by rw [State.transportRequest, hf]) hr fun u hu => ?_
  obtain ⟨rfl, rfl⟩ | ⟨v, rfl, rfl⟩ := answer_cases hb (sequencer_idRead hf hu).2
  · rfl
  · rfl

/-- The law of the three write states. -/
theorem sequencer_write {s u : State} {r : PortRequest} {f : Fsm}
    (hw : s.fsm = .unlockWrite ∧ f = .unlockSettle ∨ s.fsm = .chunkWrite ∧ f = .chunkSettle ∨
      s.fsm = .resetWrite ∧ f = .resetDelay)
    (ht : s.transportRequest = some r) (h : sequencerStep s = .next u) :
    (s.port.bus = none ∧ u = s.issued r) ∨
    (s.port.bus = some .fail ∧ u = ((s.issued r).answered .fail).raiseFatal .writeFailed 0#8 true) ∨
    (∃ v, s.port.bus = some (.ok v) ∧ u = { (s.issued r).answered (.ok []) with fsm := f }) := by
  obtain ⟨hf, rfl⟩ | ⟨hf, rfl⟩ | ⟨hf, rfl⟩ := hw <;> rw [State.transportRequest, hf] at ht <;>
    obtain rfl := Option.some.inj ht
  · exact (sequencer_unlockWrite hf h).2
  · exact (sequencer_chunkWrite hf h).2
  · exact (sequencer_resetWrite hf h).2

/-- Settles O33: the three write states share one law, in which only the next state differs. -/
theorem writeStatesGoOnOrFail : Obligations.WriteStatesGoOnOrFail := by
  intro s a r f hq hw ht hr hb
  refine step_of_transport hq ht hr fun u hu => ?_
  obtain ⟨rfl, rfl⟩ | ⟨v, rfl, rfl⟩ := answer_cases hb (sequencer_write hw ht hu)
  · rfl
  · rfl

/-- Settles O35: the law of an answered read splits on whether the byte decodes to `UNLOCKED`. -/
theorem unlockStatusAcceptsOnlyUnlocked : Obligations.UnlockStatusAcceptsOnlyUnlocked := by
  intro s a hq hf hr hb
  refine step_of_transport hq (by rw [State.transportRequest, hf]) hr fun u hu => ?_
  obtain ⟨rfl, rfl⟩ | ⟨v, rfl, ⟨hd, rfl⟩ | ⟨hd, rfl⟩⟩ := answer_cases hb (sequencer_unlockStatus hf hu).2
  · rfl
  · exact (if_pos hd).symm
  · exact (if_neg hd).symm

/-- The limit of R213 is reached where there is one and this reply makes it full. -/
theorem pollExpired_iff {limit : Option Nat} {count : Nat} :
    pollExpired limit count = true ↔ ∃ n, limit = some n ∧ n ≤ count + 1 := by
  cases limit with
  | none => simp [pollExpired]
  | some n => simp [pollExpired]

/-- Settles O37: the verdict's four cases are the branches of the sort, and `pollExpired` is the test against the limit. -/
theorem pollReadSortsTheStatus : Obligations.PollReadSortsTheStatus := by
  intro s a hq hf hr hb
  refine step_of_transport hq (by rw [State.transportRequest, hf]) hr fun u hu => ?_
  obtain ⟨rfl, rfl⟩ | ⟨v, rfl, rfl⟩ := answer_cases hb (sequencer_pollRead hf hu).2
  · rfl
  obtain ⟨hwait, hlast, e⟩ | ⟨hwait, hlast, e⟩ | ⟨hgood, e⟩ | ⟨hwait, hproc, hdone, e⟩ :=
    pollVerdict_cases Config.pollLimit v[0] ((s.issued (.bus Config.devAddr descStatusRead [])).answered (.ok [v[0]]))
  · exact e.trans ((if_pos hwait).trans (if_pos (pollExpired_iff.mp hlast))).symm
  · exact e.trans ((if_pos hwait).trans (if_neg (mt pollExpired_iff.mpr (Bool.eq_false_iff.mp hlast)))).symm
  · have hwait : decodeStatus v[0] ≠ .code .wait := by rcases hgood with h | h <;> simp [h]
    exact e.trans ((if_neg hwait).trans (if_pos hgood)).symm
  · exact e.trans ((if_neg hwait).trans (if_neg (not_or.mpr ⟨hproc, hdone⟩))).symm

/-- Settles O39: whether the byte decodes to `DONE` picks the event and `done_seen`, and nothing else. -/
theorem finalReadReportsDone : Obligations.FinalReadReportsDone := by
  intro s a hq hf hr hb
  refine step_of_transport hq (by rw [State.transportRequest, hf]) hr fun u hu => ?_
  obtain ⟨rfl, rfl⟩ | ⟨v, rfl, rfl⟩ := answer_cases hb (sequencer_finalRead hf hu).2
  · rfl
  · by_cases hd : decodeStatus v[0] = .code .done
    · simp only [hd, decide_true, if_true]
    · simp only [hd, decide_false, if_false, Bool.false_eq_true]

end Sys2Proof.Machine
end

section
/-! SUPPORT. What a step of the block can do, said once: `Turn` lists the moves of a quiet step before the input ports move on,
and `perform_eq_next_iff_turn` ties it to the model. The claims about every step are case analyses of `Turn`. -/

namespace Sys2Proof.Machine

/-- The error a transport state raises when the transport fails (R204, R207, R209, R211, R213, R216, R217). -/
def Fsm.busError : Fsm → Option ErrCode
  | .idRead | .pollRead | .finalRead => some .readFailed
  | .unlockWrite | .chunkWrite | .resetWrite => some .writeFailed
  | .unlockStatus => some .unlockRejected
  | _ => none

/-- Where a write state goes on when its write was taken (R207, R211, R217). -/
def Fsm.written : Fsm → Option Fsm
  | .unlockWrite => some .unlockSettle
  | .chunkWrite => some .chunkSettle
  | .resetWrite => some .resetDelay
  | _ => none

/-- The delay of a delay state within a run, and where it goes on (R208, R212, R214). -/
def Fsm.delayed : Fsm → Option (TimerKind × Fsm)
  | .unlockSettle => some (.unlockSettle, .unlockStatus)
  | .chunkSettle => some (.chunkSettle, .pollRead)
  | .pollDelay => some (.poll, .pollRead)
  | _ => none

/-- What a transport state makes of the transport's answer; `q` is the state with the request on its port. -/
inductive Takes (q : State) : BusAnswer → State → Prop
  | fails {c : ErrCode} (hc : q.fsm.busError = some c) : Takes q .fail ((q.answered .fail).raiseFatal c 0#8 true)
  | identity (v : Vector Byte 32) (hf : q.fsm = .idRead) : Takes q (.ok v) { q.answered (.ok v.toList) with
      idblk := v, devRev := revision Config.revOrder v[30] v[31], fsm := .gate }
  | written {f : Fsm} (v : Vector Byte 32) (hf : q.fsm.written = some f) : Takes q (.ok v) { q.answered (.ok []) with fsm := f }
  | unlocked (v : Vector Byte 32) (hf : q.fsm = .unlockStatus) (hv : decodeStatus v[0] = .code .unlocked) :
      Takes q (.ok v) { q.answered (.ok [v[0]]) with st := v[0], offset := 0#32, fsm := .chunkRead }
  | rejected (v : Vector Byte 32) (hf : q.fsm = .unlockStatus) (hv : decodeStatus v[0] ≠ .code .unlocked) :
      Takes q (.ok v) (State.raiseFatal .unlockRejected v[0] false { q.answered (.ok [v[0]]) with st := v[0] })
  | expired (v : Vector Byte 32) (hf : q.fsm = .pollRead) (hv : decodeStatus v[0] = .code .wait)
      (hw : pollExpired Config.pollLimit q.waitCount = true) :
      Takes q (.ok v) (State.raiseFatal .pollTimeout v[0] false { q.answered (.ok [v[0]]) with st := v[0] })
  | mustWait (v : Vector Byte 32) (hf : q.fsm = .pollRead) (hv : decodeStatus v[0] = .code .wait)
      (hw : pollExpired Config.pollLimit q.waitCount = false) :
      Takes q (.ok v) { q.answered (.ok [v[0]]) with st := v[0], waitCount := q.waitCount + 1, fsm := .pollDelay }
  | accepted (v : Vector Byte 32) (hf : q.fsm = .pollRead)
      (hv : decodeStatus v[0] = .code .inProc ∨ decodeStatus v[0] = .code .done) :
      Takes q (.ok v) { q.answered (.ok [v[0]]) with st := v[0], fsm := .advance }
  | reported (v : Vector Byte 32) (hf : q.fsm = .pollRead) (hwait : decodeStatus v[0] ≠ .code .wait)
      (hproc : decodeStatus v[0] ≠ .code .inProc) (hdone : decodeStatus v[0] ≠ .code .done) :
      Takes q (.ok v) (State.raiseFatal .deviceReportedError v[0] false { q.answered (.ok [v[0]]) with st := v[0] })
  | finished (v : Vector Byte 32) (hf : q.fsm = .finalRead) :
      Takes q (.ok v) { (q.answered (.ok [v[0]])).emit
          (.info (if decide (decodeStatus v[0] = .code .done) then .doneOk else .doneWarn)) with
        st := v[0], doneSeen := decide (decodeStatus v[0] = .code .done), fsm := .resetWrite }

/-- What a quiet step can do, before the input ports move on. -/
inductive Turn (s : State) : State → Prop
  | start (hf : s.fsm = .idle) (hs : s.port.start = true) : Turn s { s with
      imgSize := s.port.footer.binSize, imgRev := s.port.footer.revision, imgMagic := s.port.footer.magic, fsm := .validate }
  | rests (hf : s.fsm = .idle ∧ s.port.start = false ∨ s.fsm.terminal = true) : Turn s s
  | valid (hf : s.fsm = .validate) (hv : s.imgMagic = Config.footerMagic ∧ goodSize s.imgSize = true) :
      Turn s { s with fsm := .idRead }
  | invalid (hf : s.fsm = .validate) (hv : ¬ (s.imgMagic = Config.footerMagic ∧ goodSize s.imgSize = true)) :
      Turn s (s.raiseFatal .invalidImage 0#8 false)
  | unsupported (hf : s.fsm = .gate) (hlow : s.devRev < Config.minRev) :
      Turn s (s.raiseFatal .unsupportedDevice 0#8 false)
  | upToDate (hf : s.fsm = .gate) (hmin : Config.minRev ≤ s.devRev) (heq : s.devRev = s.imgRev.setWidth 16) :
      Turn s { s.emit (.info .upToDate) with exitCode := false, fsm := .upToDate }
  | outdated (hf : s.fsm = .gate) (hmin : Config.minRev ≤ s.devRev) (hne : s.devRev ≠ s.imgRev.setWidth 16) :
      Turn s { s with fsm := .unlockBuild }
  | built (hf : s.fsm = .unlockBuild) : Turn s { s with
      crc := crc8 (unlockFields Config.magicKey Config.flashLoc s.imgSize)
      ubuf := bufOf 13 (unlockFields Config.magicKey Config.flashLoc s.imgSize ++
        [crc8 (unlockFields Config.magicKey Config.flashLoc s.imgSize)])
      fsm := .unlockWrite }
  | delayed {k : TimerKind} {f : Fsm} (hd : s.fsm.delayed = some (k, f)) (hr : s.ready (.tmr k) = true) :
      Turn s { (s.issued (.tmr k)).answered .timer with fsm := f }
  | left (hf : s.fsm = .resetDelay) (hr : s.ready (.tmr .resetExit) = true) :
      Turn s { (s.issued (.tmr .resetExit)).answered .timer with exitCode := false, fsm := .complete }
  | shortRead (hf : s.fsm = .chunkRead) (hr : s.ready (.img s.offset 128) = true)
      (hd : (s.imageBytes s.offset 128).length < 128) :
      Turn s (((s.issued (.img s.offset 128)).answered (.image (s.imageBytes s.offset 128))).raiseFatal .ioError 0#8 false)
  | fullRead (hf : s.fsm = .chunkRead) (hr : s.ready (.img s.offset 128) = true)
      (hd : ¬ (s.imageBytes s.offset 128).length < 128) :
      Turn s { (s.issued (.img s.offset 128)).answered (.image (s.imageBytes s.offset 128)) with
        crc := crc8 (s.imageBytes s.offset 128)
        chunk := bufOf 129 (s.imageBytes s.offset 128 ++ [crc8 (s.imageBytes s.offset 128)])
        waitCount := 0
        fsm := .chunkWrite }
  | advances (hf : s.fsm = .advance) : Turn s { s.emit (.progress (s.imgSize - s.nextOffset) s.imgSize) with
      offset := s.nextOffset, fsm := if s.nextOffset = s.imgSize then .finalRead else .chunkRead }
  | waits {r : PortRequest} (ht : s.transportRequest = some r) (hr : s.ready r = true) (hb : s.port.bus = none) :
      Turn s (s.issued r)
  | answered {r : PortRequest} {a : BusAnswer} {u : State} (ht : s.transportRequest = some r) (hr : s.ready r = true)
      (hb : s.port.bus = some a) (hu : Takes (s.issued r) a u) : Turn s u

/-! ## `Turn` is the model's -/

/-- A transport state's law, as a move. -/
theorem turn_of_law {s u : State} {r : PortRequest} {P : Vector Byte 32 → Prop} {c : ErrCode} (ht : s.transportRequest = some r)
    (hc : s.fsm.busError = some c)
    (h : s.ready r = true ∧ ((s.port.bus = none ∧ u = s.issued r) ∨
      (s.port.bus = some .fail ∧ u = ((s.issued r).answered .fail).raiseFatal c 0#8 true) ∨
      ∃ v, s.port.bus = some (.ok v) ∧ P v))
    (hok : ∀ v, P v → Takes (s.issued r) (.ok v) u) : Turn s u := by
  obtain ⟨hr, ⟨hb, rfl⟩ | ⟨hb, rfl⟩ | ⟨v, hb, hv⟩⟩ := h
  · exact .waits ht hr hb
  · exact .answered ht hr hb (.fails hc)
  · exact .answered ht hr hb (hok v hv)

/-- Everything the sequencer's step can do (R201 to R221). -/
theorem turn_of_sequencerStep {s u : State} (hi : s.fsm = .idle → s.port.start = false) (h : sequencerStep s = .next u) :
    Turn s u := by
  cases hf : s.fsm
  case idle =>
    obtain rfl := sequencer_idle hf h
    exact .rests (.inl ⟨hf, hi hf⟩)
  case complete | upToDate | fail =>
    have hterm : s.fsm.terminal = true := by rw [hf]; rfl
    obtain rfl := sequencer_terminal hterm h
    exact .rests (.inr hterm)
  case validate =>
    rw [sequencerStep_of_no_op (by rw [stateOp, hf]), hf, stateRule, ruleValidate_eq, Host.Outcome.next.injEq] at h
    split at h <;> subst h
    next hv => exact .valid hf hv
    next hv => exact .invalid hf hv
  case gate =>
    obtain ⟨hlow, rfl⟩ | ⟨hmin, heq, rfl⟩ | ⟨hmin, hne, rfl⟩ := sequencer_gate hf h
    · exact .unsupported hf hlow
    · exact .upToDate hf hmin heq
    · exact .outdated hf hmin hne
  case unlockBuild => exact sequencer_unlockBuild hf h ▸ .built hf
  case advance => exact sequencer_advance hf h ▸ .advances hf
  case unlockSettle =>
    obtain ⟨hr, rfl⟩ := sequencer_unlockSettle hf h
    exact .delayed (by rw [hf]; rfl) hr
  case chunkSettle =>
    obtain ⟨hr, rfl⟩ := sequencer_chunkSettle hf h
    exact .delayed (by rw [hf]; rfl) hr
  case pollDelay =>
    obtain ⟨hr, rfl⟩ := sequencer_pollDelay hf h
    exact .delayed (by rw [hf]; rfl) hr
  case resetDelay =>
    obtain ⟨hr, rfl⟩ := sequencer_resetDelay hf h
    exact .left hf hr
  case chunkRead =>
    obtain ⟨hr, ⟨hd, rfl⟩ | ⟨hd, rfl⟩⟩ := sequencer_chunkRead hf h
    · exact .shortRead hf hr hd
    · exact .fullRead hf hr hd
  case idRead =>
    exact turn_of_law (by rw [State.transportRequest, hf]) (by rw [hf]; rfl) (sequencer_idRead hf h)
      fun v e => e ▸ .identity v hf
  case unlockWrite =>
    exact turn_of_law (by rw [State.transportRequest, hf]) (by rw [hf]; rfl) (sequencer_unlockWrite hf h)
      fun v e => e ▸ .written v (by rw [State.issued_fsm, hf]; rfl)
  case chunkWrite =>
    exact turn_of_law (by rw [State.transportRequest, hf]) (by rw [hf]; rfl) (sequencer_chunkWrite hf h)
      fun v e => e ▸ .written v (by rw [State.issued_fsm, hf]; rfl)
  case resetWrite =>
    exact turn_of_law (by rw [State.transportRequest, hf]) (by rw [hf]; rfl) (sequencer_resetWrite hf h)
      fun v e => e ▸ .written v (by rw [State.issued_fsm, hf]; rfl)
  case unlockStatus =>
    refine turn_of_law (by rw [State.transportRequest, hf]) (by rw [hf]; rfl) (sequencer_unlockStatus hf h) fun v e => ?_
    obtain ⟨hv, rfl⟩ | ⟨hv, rfl⟩ := e
    · exact .unlocked v hf hv
    · exact .rejected v hf hv
  case pollRead =>
    refine turn_of_law (by rw [State.transportRequest, hf]) (by rw [hf]; rfl) (sequencer_pollRead hf h) fun v e => ?_
    obtain ⟨hv, hw, e'⟩ | ⟨hv, hw, e'⟩ | ⟨hv, e'⟩ | ⟨h1, h2, h3, e'⟩ := pollVerdict_cases Config.pollLimit v[0]
      ((s.issued (.bus Config.devAddr descStatusRead [])).answered (.ok [v[0]])) <;> rw [e, e']
    · exact .expired v hf hv hw
    · exact .mustWait v hf hv hw
    · exact .accepted v hf hv
    · exact .reported v hf h1 h2 h3
  case finalRead =>
    exact turn_of_law (by rw [State.transportRequest, hf]) (by rw [hf]; rfl) (sequencer_finalRead hf h)
      fun v e => e ▸ .finished v hf

section
variable {s : State} {addr : BitVec 7} {d : BitVec 9} {frame : List Byte} (ht : s.transportRequest = some (.bus addr d frame))
include ht

theorem busReply_of_idRead (hf : s.fsm = .idRead) (v : Vector Byte 32) : busReply d (.ok v) = .ok v.toList := by
  rw [State.transportRequest, hf] at ht
  cases ht
  exact busReply_idRead v

theorem busReply_of_status (hf : s.fsm = .unlockStatus ∨ s.fsm = .pollRead ∨ s.fsm = .finalRead) (v : Vector Byte 32) :
    busReply d (.ok v) = .ok [v[0]] := by
  obtain hf | hf | hf := hf <;> rw [State.transportRequest, hf] at ht <;> cases ht <;> exact busReply_statusRead v

theorem busReply_of_write {f : Fsm} (hf : s.fsm.written = some f) (v : Vector Byte 32) : busReply d (.ok v) = .ok [] := by
  cases hs : s.fsm <;> simp only [hs, Fsm.written, reduceCtorEq] at hf <;> rw [State.transportRequest, hs] at ht <;>
    cases ht <;> rfl

end

/-- The rule of a transport state, given the answer, makes the move that `Takes` lists. -/
theorem stateRule_of_takes {s u : State} {r : PortRequest} {addr : BitVec 7} {d : BitVec 9} {frame : List Byte} {a : BusAnswer}
    (ht : s.transportRequest = some (.bus addr d frame)) (h : Takes (s.issued r) a u) :
    stateRule s.fsm ((s.issued r).answered (busReply d a)) = .next u := by
  cases h with
  | fails hc =>
    rw [State.issued_fsm] at hc
    cases hf : s.fsm <;> simp only [hf, Fsm.busError, reduceCtorEq] at hc <;> obtain rfl := Option.some.inj hc <;> rfl
  | identity v hf =>
    rw [State.issued_fsm] at hf
    rw [busReply_of_idRead ht hf, hf]
    simp [stateRule, ruleIdRead, bufOf_vector]
  | written v hf =>
    rw [State.issued_fsm] at hf
    rw [busReply_of_write ht hf]
    cases hs : s.fsm <;> simp only [hs, Fsm.written, reduceCtorEq] at hf <;> obtain rfl := Option.some.inj hf <;> rfl
  | unlocked v hf hv | rejected v hf hv =>
    rw [State.issued_fsm] at hf
    rw [busReply_of_status ht (.inl hf), hf]
    simp [stateRule, ruleUnlockStatus, statusByte, hv]
  | expired v hf hv hw | mustWait v hf hv hw =>
    rw [State.issued_fsm] at hf
    rw [State.issued_waitCount] at hw
    rw [busReply_of_status ht (.inr (.inl hf)), hf]
    simp [stateRule, rulePollRead, statusByte, pollVerdict, hv, hw]
  | accepted v hf hv =>
    rw [State.issued_fsm] at hf
    rw [busReply_of_status ht (.inr (.inl hf)), hf]
    obtain hv | hv := hv <;> simp [stateRule, rulePollRead, statusByte, pollVerdict, hv]
  | reported v hf hwait hproc hdone =>
    rw [State.issued_fsm] at hf
    rw [busReply_of_status ht (.inr (.inl hf)), hf]
    have := pollVerdict_cases Config.pollLimit v[0] ((s.issued r).answered (.ok [v[0]]))
    simp_all [stateRule, rulePollRead, statusByte]
  | finished v hf =>
    rw [State.issued_fsm] at hf
    rw [busReply_of_status ht (.inr (.inr hf)), hf]
    simp [stateRule, ruleFinalRead, statusByte, exec, execOutInfo]

theorem sequencerStep_of_delay {s : State} {i : Instr} {k : TimerKind} (hop : stateOp s = some i) (he : exec i s = delay k s)
    (hr : s.ready (.tmr k) = true) : sequencerStep s = stateRule s.fsm ((s.issued (.tmr k)).answered .timer) :=
  sequencerStep_of_op hop (he.trans (delay_of_ready hr))

/-- Every move `Turn` lists but the start is the sequencer's. -/
theorem sequencerStep_of_turn {s u : State} (hi : s.fsm = .idle → s.port.start = false) (h : Turn s u) :
    sequencerStep s = .next u := by
  cases h with
  | start hf hs => rw [hi hf] at hs; cases hs
  | rests hf =>
    obtain ⟨hf, -⟩ | hf := hf
    · simp [sequencerStep, stateOp, stateRule, hf]
    · cases hs : s.fsm <;> simp only [hs, Fsm.terminal, Bool.false_eq_true] at hf <;>
        simp [sequencerStep, stateOp, stateRule, hs]
  | valid hf hv | invalid hf hv => simp [sequencerStep, stateOp, stateRule, hf, ruleValidate_eq, hv]
  | unsupported hf hlow => simp [sequencerStep, stateOp, stateRule, hf, ruleGate, hlow]
  | upToDate hf hmin heq | outdated hf hmin heq =>
    have hlow := BitVec.not_lt.mpr hmin
    simp only [sequencerStep, stateOp, stateRule, hf, ruleGate, if_neg hlow]
    simp [heq, exec, execOutInfo]
  | built hf => simp [sequencerStep, stateOp, stateRule, hf, ruleUnlockBuild, crcBlock_eq]
  | delayed hd hr =>
    cases hs : s.fsm <;> simp only [hs, Fsm.delayed, reduceCtorEq] at hd <;> cases hd <;>
      rw [sequencerStep_of_delay (by rw [stateOp, hs]) rfl hr, hs] <;> rfl
  | left hf hr =>
    rw [sequencerStep_of_delay (by rw [stateOp, hf]) rfl hr, hf]
    rfl
  | shortRead hf hr hd | fullRead hf hr hd =>
    have hread : exec (.imgRead s.offset) s = .next _ := memRead_eq_next.mpr ⟨hr, rfl⟩
    rw [sequencerStep_of_op (by rw [stateOp, hf]) hread, hf]
    simp [stateRule, ruleChunkRead, Config.chunkSize, hd, crcBlock_eq]
  | advances hf => rw [sequencerStep_of_op (by rw [stateOp, hf]) rfl, hf]; rfl
  | waits ht hr hb =>
    obtain ⟨i, d, frame, hop, he, rfl⟩ := exec_of_transportRequest ht
    rw [sequencerStep_of_op hop (he.trans (transport_of_ready hr)), hb]
    cases hs : s.fsm <;> simp only [State.transportRequest, hs, reduceCtorEq] at ht <;>
      rfl
  | answered ht hr hb hu =>
    obtain ⟨i, d, frame, hop, he, rfl⟩ := exec_of_transportRequest ht
    rw [sequencerStep_of_op hop (he.trans (transport_of_ready hr)), hb]
    exact stateRule_of_takes ht hu

/-- With `start` high in `IDLE`, the start is the only move. -/
theorem turn_of_start {s u : State} (hf : s.fsm = .idle) (hs : s.port.start = true) (h : Turn s u) : u = { s with
    imgSize := s.port.footer.binSize, imgRev := s.port.footer.revision, imgMagic := s.port.footer.magic, fsm := .validate } := by
  cases h with
  | start => rfl
  | rests hr => simp [hf, hs, Fsm.terminal] at hr
  | delayed hd => simp [hf, Fsm.delayed] at hd
  | waits ht | answered ht => simp [State.transportRequest, hf] at ht
  | valid hf' | invalid hf' | unsupported hf' | upToDate hf' | outdated hf' | built hf' | left hf' | shortRead hf' | fullRead hf'
  | advances hf' => rw [hf] at hf'; cases hf'

/-- `Turn` lists exactly what a quiet step does before the input ports move on. -/
theorem perform_eq_next_iff_turn {s u : State} (hq : s.quiet = true) : perform s = .next u ↔ Turn s u := by
  rw [quiet_iff] at hq
  by_cases hs : s.fsm = .idle ∧ s.port.start = true
  · obtain ⟨hf, hs⟩ := hs
    have hp : perform s = exec .ctlStart s := by simp [perform, operate, hq, hf, hs]
    rw [hp, exec_ctlStart_of_idle hf, Host.Outcome.next.injEq]
    exact ⟨fun e => e ▸ .start hf hs, fun h => (turn_of_start hf hs h).symm⟩
  · have hi : s.fsm = .idle → s.port.start = false := by simpa using hs
    have hp : perform s = sequencerStep s := by
      have hn : (s.port.start && decide (s.fsm = .idle)) = false := by
        by_cases hf : s.fsm = .idle <;> simp [hf, hi]
      simp [perform, operate, hq, hn]
    rw [hp]
    exact ⟨turn_of_sequencerStep hi, sequencerStep_of_turn hi⟩

/-- With `rst` high a step is the reset, whatever else stands on the ports (R267, R292). -/
theorem step_of_rst {s : State} (hrst : s.port.rst = true) : step s = .next s.resetBlock.endStep := by
  simp [step, cycle, perform, hrst, exec, execCtlReset]

/-- A step with no unit run alone: the reset, or a move, and then the input ports move on. -/
theorem step_cases {s t : State} (hunit : s.port.unit = none) (h : step s = .next t) :
    (s.port.rst = true ∧ t = s.resetBlock.endStep) ∨ (s.quiet = true ∧ ∃ u, Turn s u ∧ t = u.endStep) := by
  by_cases hrst : s.port.rst = true
  · rw [step_of_rst hrst, Host.Outcome.next.injEq] at h
    exact .inl ⟨hrst, h.symm⟩
  · have hq : s.quiet = true := quiet_iff.mpr ⟨Bool.eq_false_iff.mpr hrst, hunit⟩
    obtain ⟨u, hu, ht⟩ := step_eq_next.mp h
    exact .inr ⟨hq, u, (perform_eq_next_iff_turn hq).mp hu, ht⟩

/-- A quiet step is a move, and then the input ports move on. -/
theorem step_eq_next_iff_turn {s t : State} (hq : s.quiet = true) : step s = .next t ↔ ∃ u, Turn s u ∧ t = u.endStep := by
  simp only [step_eq_next, perform_eq_next_iff_turn hq]

end Sys2Proof.Machine
end

section
/-! SUPPORT. The invariant of a run (R223). A move either leaves the registers alone, or raises an error, or goes on to a state
in which the clauses of `Inv` on the registers bind as `Holds` lists them; the rest of `Inv` is the same for every move. -/

namespace Sys2Proof.Machine

/-! ## The image read -/

/-- Settles O17: a read error only cuts the run of bytes, and the run stops where the file holds none. -/
theorem imageReadDeliversTheFile : Obligations.ImageReadDeliversTheFile := by
  intro s off n
  have hle := s.image.readRun_length_le n off.toNat
  cases hcut : s.port.imgCut with
  | none =>
    simp only [State.imageBytes, hcut]
    exact ⟨hle, s.image.get?_of_readRun n off.toNat, fun _ => s.image.readRun_stops n off.toNat⟩
  | some k =>
    simp only [State.imageBytes, hcut, List.length_take, List.getElem_take, reduceCtorEq, false_imp_iff, and_true]
    exact ⟨by omega, fun i hi => s.image.get?_of_readRun n off.toNat i (by omega)⟩

/-- A read that is not short is the whole run. -/
theorem imageBytes_full {s : State} {off : U32} {n : Nat} (h : ¬ (s.imageBytes off n).length < n) :
    s.imageBytes off n = s.image.readRun off.toNat n ∧ (s.imageBytes off n).length = n := by
  have hle := (imageReadDeliversTheFile s off n).1
  have hlen : (s.imageBytes off n).length = n := by omega
  refine ⟨?_, hlen⟩
  unfold State.imageBytes at hlen ⊢
  have hrun := s.image.readRun_length_le n off.toNat
  cases hcut : s.port.imgCut with
  | none => rfl
  | some k =>
    rw [hcut, List.length_take] at hlen
    exact List.take_of_length_le (by omega)

/-- A full read and its CRC fill the chunk. -/
theorem full_chunk_toList {s : State} {off : U32} (h : ¬ (s.imageBytes off 128).length < 128) :
    (bufOf 129 (s.imageBytes off 128 ++ [crc8 (s.imageBytes off 128)])).toList =
      s.imageBytes off 128 ++ [crc8 (s.imageBytes off 128)] :=
  bufOf_toList (by rw [List.length_append, (imageBytes_full h).2, List.length_singleton])

theorem full_chunk_sealed {s : State} {off : U32} (h : ¬ (s.imageBytes off 128).length < 128) :
    crc8 (bufOf 129 (s.imageBytes off 128 ++ [crc8 (s.imageBytes off 128)])).toList = 0x00#8 := by
  rw [full_chunk_toList h, crc8_concat_eq_zero_iff]

/-! ## The clauses on the registers -/

/-- `FINAL_READ` has written `done_seen`, or the run has failed. -/
def Fsm.mayBeDone : Fsm → Bool
  | .resetWrite | .resetDelay | .complete | .fail => true
  | _ => false

/-- The clauses of `Inv` on the registers, as they bind in state `f` of the sequencer. -/
structure Holds (f : Fsm) (s : State) : Prop where
  imageGood : f.accepted → s.imgMagic = Config.footerMagic ∧ goodSize s.imgSize
  revision : f.identified → s.devRev = Machine.revision Config.revOrder s.idblk[30] s.idblk[31]
  gatePassed : f.gated → Config.minRev ≤ s.devRev ∧ s.devRev ≠ s.imgRev.setWidth 16
  upToDate : decide (f = .upToDate) = true → Config.minRev ≤ s.devRev ∧ s.devRev = s.imgRev.setWidth 16
  unlockFrame : f.built → s.ubuf.toList = unlockFields Config.magicKey Config.flashLoc s.imgSize
    ++ [crc8 (unlockFields Config.magicKey Config.flashLoc s.imgSize)]
  offsetInside : f.transferring → s.offset.toNat % 128 = 0 ∧ s.offset.toNat + 128 ≤ s.imgSize.toNat
  offsetAtEnd : f.finalizing → s.offset = s.imgSize
  chunkSealed : f.loaded → crc8 s.chunk.toList = 0x00#8
  doneLate : f.mayBeDone = false → s.doneSeen = false

theorem Fsm.mayBeDone_iff {f : Fsm} : f.mayBeDone = true ↔ f = .resetWrite ∨ f = .resetDelay ∨ f = .complete ∨ f = .fail := by
  cases f <;> simp [Fsm.mayBeDone]

theorem Inv.holds {s : State} (h : Inv s) : Holds s.fsm s where
  imageGood := h.imageGood
  revision := h.revision
  gatePassed := h.gatePassed
  upToDate := fun hf => h.upToDate (of_decide_eq_true hf)
  unlockFrame := h.unlockFrame
  offsetInside := h.offsetInside
  offsetAtEnd := h.offsetAtEnd
  chunkSealed := h.chunkSealed
  doneLate := by
    intro hf
    by_contra hd
    rw [Fsm.mayBeDone_iff.mpr (h.doneLate (by simpa using hd))] at hf
    cases hf

theorem Inv.holds_at {s : State} {f : Fsm} (h : Inv s) (hf : s.fsm = f) : Holds f s := hf ▸ h.holds

/-- In `IDLE`, `VALIDATE` and `FAIL` the registers hold nothing of the run. -/
theorem holds_of_not_accepted {f : Fsm} {s : State} (hf : f.accepted = false) (hd : f.mayBeDone = false → s.doneSeen = false) :
    Holds f s := by
  cases f <;> simp only [Fsm.accepted, Bool.true_eq_false] at hf <;>
    exact ⟨nofun, nofun, nofun, nofun, nofun, nofun, nofun, nofun, hd⟩

/-! ## What keeps the invariant -/

/-- The registers of a successful run: no error, no diagnostic and exit code 0. -/
theorem Inv.not_failed {s : State} (h : Inv s) (hf : s.fsm ≠ .fail) :
    (s.err = .none ∧ s.errInfo = 0#8 ∧ s.errBus = false) ∧ s.exitCode = false ∧ s.out.countP isDiag = 0 :=
  ⟨by simpa [hf] using h.failed, by simpa [hf] using h.exitFail, by simpa [hf] using h.diagOnce⟩

/-- Where a state has no transport request, none waits. -/
theorem Inv.outstanding_eq_none {s : State} (h : Inv s) (ht : s.transportRequest = none) : s.outstanding = none := by
  obtain hn | ⟨hsome, he⟩ := h.inFlight
  · exact hn
  · rw [he, ht] at hsome
    cases hsome

/-- The transport states are those in which the transport's failure is an error. -/
theorem transportRequest_eq_none_iff {s : State} : s.transportRequest = none ↔ s.fsm.busError = none := by
  cases hf : s.fsm <;> simp [State.transportRequest, hf, Fsm.busError]

theorem Inv.no_request {s : State} {f : Fsm} (h : Inv s) (hf : s.fsm = f) (hf' : f.busError = none) : s.outstanding = none :=
  h.outstanding_eq_none (transportRequest_eq_none_iff.mpr (hf ▸ hf'))

/-- The end of a step keeps the invariant, the answer being used. -/
theorem Inv.endStep {u : State} (h : Inv { u with reply := none }) : Inv u.endStep :=
  { h with
    noUnit := fun n => h.noUnit (n + 1)
    imageWf := Memory.update_wf _ h.imageWf }

/-- Behind a reset nothing of a run is left. -/
theorem inv_resetBlock {s : State} (hunit : ∀ n, (s.env.input n).unit = none) (hwf : s.image.wf = true) : Inv s.resetBlock :=
  { holds_of_not_accepted (f := .idle) (s := s.resetBlock) rfl fun _ => rfl with
    upToDate := nofun
    noUnit := hunit
    imageWf := hwf
    replyNone := rfl
    inFlight := .inl rfl
    failed := ⟨rfl, rfl, rfl⟩
    exitFail := ⟨nofun, nofun⟩
    doneLate := nofun
    outGood := nofun
    diagOnce := rfl }

/-- A request on its port is the state's own. -/
theorem Inv.issued {s : State} {r : PortRequest} (h : Inv s) (ht : s.transportRequest = some r) : Inv (s.issued r) :=
  { h with inFlight := .inr ⟨rfl, ht.symm⟩, replyNone := rfl }

/-- An output event of the block that is no diagnostic. -/
theorem Inv.emit {s : State} {e : OutEvent} (h : Inv s) (hwf : e.toInstr.wf = true) (hd : isDiag e = false) : Inv (s.emit e) :=
  { h with
    outGood := by simpa [or_imp, forall_and, hwf] using h.outGood
    diagOnce := by
      rw [State.emit_out, List.countP_append, List.countP_singleton, hd]
      exact h.diagOnce }

/-- A move to a state `u` outside `FAIL` that leaves the environment, the log and the error registers alone. -/
theorem Inv.goTo {s u : State} (h : Inv s) (hs : s.fsm ≠ .fail) (hu : u.fsm ≠ .fail)
    (hframe : u = { u with
      env := s.env, image := s.image, out := s.out, err := s.err, errInfo := s.errInfo, errBus := s.errBus })
    (hnone : u.outstanding = none) (hexit : u.exitCode = true → s.exitCode = true) (hold : Holds u.fsm u) :
    Inv { u with reply := none } := by
  obtain ⟨⟨herr, hinfo, hbus⟩, hcode, hdiag⟩ := h.not_failed hs
  have hexit : u.exitCode = false := Bool.eq_false_iff.mpr fun hu => by rw [hexit hu] at hcode; cases hcode
  rw [hframe]
  exact { hold with
    upToDate := fun hf => hold.upToDate (decide_eq_true hf)
    noUnit := h.noUnit
    imageWf := h.imageWf
    replyNone := rfl
    inFlight := .inl hnone
    failed := by simp [hu, herr, hinfo, hbus]
    exitFail := by simp [hu, hexit]
    doneLate := fun hd => Fsm.mayBeDone_iff.mp (by
      by_contra hn
      rw [hold.doneLate (by simpa using hn)] at hd
      cases hd)
    outGood := h.outGood
    diagOnce := by simpa [hu] using hdiag }

/-- The error entry, from a state `q` with the environment and the log of `s`. -/
theorem Inv.raiseFatal {s q : State} {c : ErrCode} {i : Byte} {b : Bool} (h : Inv s) (hs : s.fsm ≠ .fail)
    (hframe : q = { q with env := s.env, image := s.image, out := s.out })
    (hnone : q.outstanding = none) (hd : goodDiag c i b = true) : Inv { q.raiseFatal c i b with reply := none } := by
  obtain ⟨-, -, hdiag⟩ := h.not_failed hs
  rw [hframe]
  exact { holds_of_not_accepted (f := .fail) (s := q) rfl nofun with
    upToDate := nofun
    noUnit := h.noUnit
    imageWf := h.imageWf
    replyNone := rfl
    inFlight := .inl hnone
    failed := hd
    exitFail := ⟨fun _ => rfl, fun _ => rfl⟩
    doneLate := fun _ => .inr (.inr (.inr rfl))
    outGood := by simpa [or_imp, forall_and, OutEvent.toInstr, Instr.wf, hd] using h.outGood
    diagOnce := by simp [hdiag, isDiag] }

/-! ## Offsets and operands -/

/-- Where the block stands in the image during the transfer, as numbers (R203, R223). -/
theorem Inv.offset_facts {s : State} (h : Inv s) (hf : s.fsm.transferring = true) :
    0 < s.imgSize.toNat ∧ s.imgSize.toNat ≤ 131072 ∧ s.imgSize.toNat % 128 = 0 ∧
      s.offset.toNat % 128 = 0 ∧ s.offset.toNat + 128 ≤ s.imgSize.toNat := by
  have hacc : s.fsm.accepted = true := by cases hs : s.fsm <;> simp [hs, Fsm.transferring] at hf <;> rfl
  obtain ⟨hpos, hmax, hmod⟩ := goodSize_iff.mp (h.imageGood hacc).2
  exact ⟨hpos, hmax, hmod, h.offsetInside hf⟩

/-- What is left of the image after this chunk (R182, R215). -/
theorem remaining_toNat {s : State} (h : s.offset.toNat + 128 ≤ s.imgSize.toNat) :
    (s.imgSize - s.nextOffset).toNat = s.imgSize.toNat - (s.offset.toNat + 128) := by
  rw [BitVec.toNat_sub_of_le (by rw [BitVec.le_def, nextOffset_toNat h]; exact h), nextOffset_toNat h]

theorem wf_imgRead_iff {off : U32} : (Instr.imgRead off).wf = true ↔ off.toNat % 128 = 0 ∧ off.toNat < 131072 := by
  simp only [Instr.wf, Bool.and_eq_true, decide_eq_true_eq]
  exact Iff.rfl

theorem wf_outProgress_iff {remaining total : U32} : (Instr.outProgress remaining total).wf = true ↔
    goodSize total = true ∧ remaining.toNat < total.toNat ∧ remaining.toNat % 128 = 0 := by
  simp only [Instr.wf, Bool.and_eq_true, decide_eq_true_eq, and_assoc]
  exact Iff.rfl

/-- Settles O50: only two operations have operands, and the invariant bounds `offset` by `img_size` where they are issued. -/
theorem issuedOperationsAreWellFormed : Obligations.IssuedOperationsAreWellFormed := by
  intro s i h hop
  unfold stateOp at hop
  split at hop
  case h_9 hf =>
    obtain rfl := Option.some.inj hop
    obtain ⟨-, hmax, -, hmod, hend⟩ := h.offset_facts (by rw [hf]; rfl)
    exact wf_imgRead_iff.mpr ⟨hmod, by omega⟩
  case h_14 hf =>
    obtain rfl := Option.some.inj hop
    obtain ⟨hpos, hmax, hsize, hmod, hend⟩ := h.offset_facts (by rw [hf]; rfl)
    rw [wf_outProgress_iff, goodSize_iff, remaining_toNat hend]
    omega
  all_goals cases hop <;> rfl

/-! ## Every move keeps it -/

/-- Each error a transport state raises when the transport fails is a row of R261. -/
theorem goodDiag_busError {f : Fsm} {c : ErrCode} (h : f.busError = some c) : f ≠ .fail ∧ goodDiag c 0#8 true = true := by
  cases f <;> simp only [Fsm.busError, reduceCtorEq] at h <;> obtain rfl := Option.some.inj h <;> exact ⟨nofun, rfl⟩

/-- The states behind a write are in the phases of the write. -/
theorem Holds.written {q : State} {f : Fsm} (h : Holds q.fsm q) (hf : q.fsm.written = some f) :
    q.fsm ≠ .fail ∧ f ≠ .fail ∧ Holds f q := by
  cases hq : q.fsm <;> simp only [hq, Fsm.written, reduceCtorEq] at hf <;> obtain rfl := Option.some.inj hf <;> rw [hq] at h <;>
    exact ⟨nofun, nofun, { h with }⟩

/-- The states behind a delay are in the phases of the delay. -/
theorem Holds.delayed {s : State} {k : TimerKind} {f : Fsm} (h : Holds s.fsm s) (hf : s.fsm.delayed = some (k, f)) :
    s.fsm ≠ .fail ∧ f ≠ .fail ∧ Holds f s := by
  cases hs : s.fsm <;> simp only [hs, Fsm.delayed, reduceCtorEq] at hf <;> cases hf <;> rw [hs] at h <;>
    exact ⟨nofun, nofun, { h with }⟩

/-- After a chunk the offset is the image's end, or has a chunk behind it (R215). -/
theorem Inv.holds_advanced {s u : State} (h : Inv s) (hf : s.fsm = .advance)
    (hu : u = { s with offset := s.nextOffset, fsm := u.fsm, out := u.out, trace := u.trace })
    (hfsm : u.fsm = if s.nextOffset = s.imgSize then .finalRead else .chunkRead) : Holds u.fsm u := by
  obtain ⟨-, -, hsize, hmod, hend⟩ := h.offset_facts (by rw [hf]; rfl)
  have hnext := nextOffset_toNat hend
  rw [hfsm]
  rw [hu]
  split
  next hlast => exact { h.holds_at hf with offsetInside := nofun, offsetAtEnd := fun _ => hlast }
  next hmore =>
    have hne : s.nextOffset.toNat ≠ s.imgSize.toNat := fun e => hmore (BitVec.eq_of_toNat_eq e)
    exact { h.holds_at hf with
      offsetInside := fun _ => by dsimp only; omega
      offsetAtEnd := nofun
      chunkSealed := nofun }

theorem Inv.takes {q u : State} {a : BusAnswer} (h : Inv q) (hu : Takes q a u) : Inv { u with reply := none } := by
  cases hu with
  | fails hc => exact h.raiseFatal (goodDiag_busError hc).1 rfl rfl (goodDiag_busError hc).2
  | identity v hf =>
    exact h.goTo (by rw [hf]; nofun) nofun rfl rfl id { h.holds_at hf with
      revision := fun _ => rfl, gatePassed := nofun, upToDate := nofun }
  | written v hf =>
    obtain ⟨hq, hu, hold⟩ := h.holds.written hf
    exact h.goTo hq hu rfl rfl id { hold with }
  | unlocked v hf hv =>
    have hold := h.holds_at hf
    exact h.goTo (by rw [hf]; nofun) nofun rfl rfl id { hold with
      offsetAtEnd := nofun
      offsetInside := fun _ => by
        obtain ⟨hpos, -, hmod⟩ := goodSize_iff.mp (hold.imageGood rfl).2
        exact ⟨rfl, Nat.le_of_dvd hpos (Nat.dvd_of_mod_eq_zero hmod)⟩ }
  | rejected v hf hv => exact h.raiseFatal (by rw [hf]; nofun) rfl rfl rfl
  | expired v hf hv hw => exact h.raiseFatal (by rw [hf]; nofun) rfl rfl rfl
  | mustWait v hf hv hw => exact h.goTo (by rw [hf]; nofun) nofun rfl rfl id { h.holds_at hf with }
  | accepted v hf hv => exact h.goTo (by rw [hf]; nofun) nofun rfl rfl id { h.holds_at hf with }
  | reported v hf hwait hproc hdone => exact h.raiseFatal (by rw [hf]; nofun) rfl rfl rfl
  | finished v hf =>
    exact (h.emit (e := .info _) rfl rfl).goTo (by rw [State.emit_fsm, hf]; nofun) nofun rfl rfl id
      { h.holds_at hf with doneLate := nofun }

theorem Inv.turn {s u : State} (h : Inv s) (hu : Turn s u) : Inv { u with reply := none } := by
  cases hu with
  | start hf hs =>
    exact h.goTo (by rw [hf]; nofun) nofun rfl (h.no_request hf rfl) id
      (holds_of_not_accepted rfl fun _ => (h.holds_at hf).doneLate rfl)
  | rests hf => exact { h with replyNone := rfl }
  | valid hf hv =>
    exact h.goTo (by rw [hf]; nofun) nofun rfl (h.no_request hf rfl) id { h.holds_at hf with imageGood := fun _ => hv }
  | invalid hf hv =>
    exact h.raiseFatal (by rw [hf]; nofun) rfl (h.no_request hf rfl) rfl
  | unsupported hf hlow =>
    exact h.raiseFatal (by rw [hf]; nofun) rfl (h.no_request hf rfl) rfl
  | upToDate hf hmin heq =>
    exact (h.emit (e := .info _) rfl rfl).goTo (by rw [State.emit_fsm, hf]; nofun) nofun rfl (h.no_request hf rfl) nofun
      { h.holds_at hf with upToDate := fun _ => ⟨hmin, heq⟩ }
  | outdated hf hmin hne =>
    exact h.goTo (by rw [hf]; nofun) nofun rfl (h.no_request hf rfl) id
      { h.holds_at hf with gatePassed := fun _ => ⟨hmin, hne⟩ }
  | built hf =>
    exact h.goTo (by rw [hf]; nofun) nofun rfl (h.no_request hf rfl) id
      { h.holds_at hf with unlockFrame := fun _ => bufOf_toList rfl }
  | delayed hd hr =>
    obtain ⟨hs, hu, hold⟩ := h.holds.delayed hd
    exact h.goTo hs hu rfl rfl id { hold with }
  | left hf hr =>
    exact h.goTo (by rw [hf]; nofun) nofun rfl rfl nofun { h.holds_at hf with }
  | shortRead hf hr hd => exact h.raiseFatal (by rw [hf]; nofun) rfl rfl rfl
  | fullRead hf hr hd =>
    exact h.goTo (by rw [hf]; nofun) nofun rfl rfl id { h.holds_at hf with chunkSealed := fun _ => full_chunk_sealed hd }
  | advances hf =>
    have hwf : (Instr.outProgress (s.imgSize - s.nextOffset) s.imgSize).wf = true :=
      issuedOperationsAreWellFormed s _ h (by rw [stateOp, hf])
    exact (h.emit (e := .progress _ _) hwf rfl).goTo (by rw [State.emit_fsm, hf]; nofun) (by dsimp only; split <;> nofun) rfl
      (h.no_request hf rfl) id (h.holds_advanced hf rfl rfl)
  | waits ht hr hb => exact { h.issued ht with replyNone := rfl }
  | answered ht hr hb hu => exact (h.issued ht).takes hu

/-- Settles O48: a step is a reset, which keeps the invariant, or a move, and every move keeps it. -/
theorem stepKeepsInv : Obligations.StepKeepsInv := by
  intro s t h ht
  obtain ⟨-, rfl⟩ | ⟨-, u, hu, rfl⟩ := step_cases (h.noUnit 0) ht
  · exact Inv.endStep { inv_resetBlock h.noUnit h.imageWf with replyNone := rfl }
  · exact (h.turn hu).endStep

end Sys2Proof.Machine
end

section
/-! SUPPORT. The history on the ports follows the protocol (R86, R226, R298 to R303): the events of a move lead from where the
sequencer stands to where it stands behind the move. -/

namespace Sys2Proof.Machine

/-! ## Runs of the protocol -/

theorem Proto.run_append (p : Proto) (xs ys : List Event) : p.run (xs ++ ys) = (p.run xs).bind fun q => q.run ys := by
  induction xs generalizing p with
  | nil => rfl
  | cons e rest ih =>
    simp only [List.cons_append, Proto.run]
    cases p.next e with
    | none => rfl
    | some q => exact ih q

/-- What a history does behind another one. -/
theorem Proto.run_trans {p q r : Proto} {xs ys : List Event} (hx : p.run xs = some q) (hy : q.run ys = some r) :
    p.run (xs ++ ys) = some r := by
  rw [Proto.run_append, hx]
  exact hy

@[simp] theorem Proto.next_out (p : Proto) (e : OutEvent) : p.next (.out e) = some p := by cases p <;> rfl

/-- Output events lead nowhere else. -/
theorem Proto.run_outs (p : Proto) (out : List OutEvent) : p.run (out.map .out) = some p := by
  induction out with
  | nil => rfl
  | cons e rest ih => simpa [Proto.run] using ih

/-- Where the protocol stands while the request of a transport state waits. -/
def Fsm.asked : Fsm → Proto
  | .idRead => .idAsked
  | .unlockWrite => .unlockSent
  | .unlockStatus => .unlockAsked
  | .chunkWrite => .chunkSent
  | .pollRead => .polled
  | .finalRead => .finalAsked
  | .resetWrite => .resetSent
  | _ => .dead

/-- While its request waits, a transport state stands where it asked. -/
theorem Proto.fits_waiting {p : Proto} {s : State} {r : PortRequest} (ht : s.transportRequest = some r)
    (hw : s.outstanding = some r) : p.fits s ↔ p = s.fsm.asked := by
  cases hf : s.fsm <;> simp [State.transportRequest, hf] at ht <;> simp [Proto.fits, hf, hw, Fsm.asked]

/-- The request of a transport state is the one the protocol has next there. -/
theorem Proto.next_issue {p : Proto} {s : State} {r : PortRequest} (ht : s.transportRequest = some r)
    (hw : s.outstanding = none) (hp : p.fits s) : p.next (.issue r) = some s.fsm.asked := by
  cases hf : s.fsm <;> simp only [State.transportRequest, hf, reduceCtorEq, Option.some.injEq] at ht <;> subst ht <;>
    simp only [Proto.fits, hf, hw, Option.isSome_none, Bool.false_eq_true, if_false] at hp
  case chunkWrite =>
    obtain ⟨rfl, hsealed⟩ := hp
    exact if_pos hsealed
  all_goals
    subst hp
    rfl

/-- The history with the state's request on its port. -/
theorem ProtocolInv.run_issued {s : State} {r : PortRequest} (h : ProtocolInv s) (ht : s.transportRequest = some r)
    (hr : s.ready r = true) : Proto.run .start (s.issued r).trace = some s.fsm.asked := by
  obtain ⟨p, hrun, hp⟩ := h
  rw [State.issued_trace]
  obtain hw | hw := State.ready_iff.mp hr
  · rw [if_pos hw]
    exact Proto.run_trans hrun (by simp only [Proto.run, Proto.next_issue ht hw hp])
  · rw [if_neg (by simp [hw]), hrun, (Proto.fits_waiting ht hw).mp hp]

/-- A history that goes on by the events `es` from where the protocol stands. -/
theorem ProtocolInv.of_events {u : State} {p p' : Proto} {trace es : List Event} (hrun : Proto.run .start trace = some p)
    (hes : p.run es = some p') (htrace : u.trace = trace ++ es) (hfits : p'.fits u) : ProtocolInv u :=
  ⟨p', htrace ▸ Proto.run_trans hrun hes, hfits⟩

/-! ## Every move follows the protocol -/

/-- A status answer to the unlock request, and output events behind it. -/
theorem unlockAsked_run (b : Byte) (out : List OutEvent) :
    Proto.run .unlockAsked (.answer (.ok [b]) :: out.map .out) =
      some (if decodeStatus b = .code .unlocked then .ready else .dead) := by
  exact Proto.run_outs _ out

/-- A status answer to a poll, and output events behind it. -/
theorem polled_run (b : Byte) (out : List OutEvent) :
    Proto.run .polled (.answer (.ok [b]) :: out.map .out) = some (Proto.onPoll b) :=
  Proto.run_outs _ out

/-- The answer to a transport request leads from where the request stands to where the state goes on. -/
theorem protocolInv_takes {q u : State} {a : BusAnswer} (hrun : Proto.run .start q.trace = some q.fsm.asked)
    (hu : Takes q a u) : ProtocolInv u := by
  cases hu with
  | fails hc =>
    refine .of_events hrun (p' := .dead) (es := [.answer .fail, .out _]) ?_ (List.append_assoc ..) trivial
    cases hf : q.fsm <;> simp only [hf, Fsm.busError, reduceCtorEq] at hc <;> rfl
  | identity v hf =>
    rw [hf] at hrun
    exact .of_events hrun (es := [.answer (.ok _)]) rfl rfl rfl
  | written v hf =>
    cases hq : q.fsm <;> simp only [hq, Fsm.written, reduceCtorEq] at hf <;> obtain rfl := Option.some.inj hf <;>
      rw [hq] at hrun <;> exact .of_events hrun (es := [.answer (.ok [])]) rfl rfl rfl
  | unlocked v hf hv =>
    rw [hf] at hrun
    exact .of_events hrun (unlockAsked_run v[0] []) rfl (.inl (if_pos hv))
  | rejected v hf hv =>
    rw [hf] at hrun
    exact .of_events hrun (unlockAsked_run v[0] [_]) (List.append_assoc ..) trivial
  | expired v hf hv hw =>
    rw [hf] at hrun
    exact .of_events hrun (polled_run v[0] [_]) (List.append_assoc ..) trivial
  | mustWait v hf hv hw =>
    rw [hf] at hrun
    exact .of_events hrun (polled_run v[0] []) rfl (by rw [Proto.onPoll, hv]; rfl)
  | accepted v hf hv =>
    rw [hf] at hrun
    exact .of_events hrun (polled_run v[0] []) rfl (by obtain hv | hv := hv <;> rw [Proto.onPoll, hv] <;> rfl)
  | reported v hf hwait hproc hdone =>
    rw [hf] at hrun
    exact .of_events hrun (polled_run v[0] [_]) (List.append_assoc ..) trivial
  | finished v hf =>
    rw [hf] at hrun
    exact .of_events hrun (es := [.answer (.ok [v[0]]), .out _]) rfl (List.append_assoc ..) rfl

/-- A delay state is no transport state. -/
theorem busError_of_delayed {f : Fsm} {d : TimerKind × Fsm} (h : f.delayed = some d) : f.busError = none := by
  cases f <;> simp only [Fsm.delayed, reduceCtorEq] at h <;> rfl

/-- A request that is answered in the step that issues it. -/
theorem issued_answered_trace {s : State} {r : PortRequest} {a : Reply} (h : s.outstanding = none) :
    ((s.issued r).answered a).trace = s.trace ++ [.issue r, .answer a] := by
  simp [h]

theorem protocolInv_turn {s u : State} (h : Inv s) (hp : ProtocolInv s) (hu : Turn s u) : ProtocolInv u := by
  obtain ⟨p, hrun, hfits⟩ := id hp
  cases hu with
  | start hf hs =>
    simp only [Proto.fits, hf] at hfits
    exact ⟨p, hrun, hfits⟩
  | rests hf => exact hp
  | valid hf hv =>
    simp only [Proto.fits, hf] at hfits
    exact ⟨p, hrun, by simp only [Proto.fits, h.no_request hf rfl]; exact hfits⟩
  | invalid hf hv | unsupported hf hlow => exact .of_events hrun (Proto.run_outs p [_]) rfl trivial
  | upToDate hf hmin heq =>
    simp only [Proto.fits, hf] at hfits
    exact .of_events hrun (Proto.run_outs p [_]) rfl hfits
  | outdated hf hmin hne =>
    simp only [Proto.fits, hf] at hfits
    exact ⟨p, hrun, hfits⟩
  | built hf =>
    simp only [Proto.fits, hf] at hfits
    exact ⟨p, hrun, by simp only [Proto.fits, h.no_request hf rfl]; exact hfits⟩
  | @delayed k f hd hr =>
    have htrace := issued_answered_trace (r := .tmr k) (a := .timer) (h.no_request rfl (busError_of_delayed hd))
    cases hs : s.fsm <;> simp only [hs, Fsm.delayed, reduceCtorEq] at hd <;> cases hd <;>
      simp only [Proto.fits, hs] at hfits <;> subst hfits <;> exact .of_events hrun rfl htrace rfl
  | left hf hr =>
    simp only [Proto.fits, hf] at hfits
    subst hfits
    exact .of_events hrun rfl (issued_answered_trace (h.no_request hf rfl)) rfl
  | shortRead hf hr hd =>
    simp only [Proto.fits, hf] at hfits
    refine .of_events hrun (p' := .dead) (es := [.issue (.img s.offset 128),
      .answer (.image (s.imageBytes s.offset 128)), .out (.diag .ioError 0#8 false)]) ?_ ?_ trivial
    · obtain rfl | rfl := hfits <;> exact congrArg some (if_neg hd.ne)
    · simp [h.no_request hf rfl]
  | fullRead hf hr hd =>
    simp only [Proto.fits, hf] at hfits
    have hlen := (imageBytes_full hd).2
    refine .of_events hrun (p' := .loaded (s.imageBytes s.offset 128)) ?_ (issued_answered_trace (h.no_request hf rfl)) ?_
    · obtain rfl | rfl := hfits <;> exact congrArg some (if_pos hlen)
    · have htake : (s.imageBytes s.offset 128 ++ [crc8 (s.imageBytes s.offset 128)]).take 128 = s.imageBytes s.offset 128 :=
        List.take_left' hlen
      simp [Proto.fits, full_chunk_toList hd, htake]
  | advances hf =>
    simp only [Proto.fits, hf] at hfits
    refine .of_events hrun (Proto.run_outs p [_]) rfl ?_
    by_cases hlast : s.nextOffset = s.imgSize <;> simp [Proto.fits, hlast, h.no_request hf rfl, hfits]
  | @waits r ht hr hb => exact ⟨_, hp.run_issued ht hr, (Proto.fits_waiting (s := s.issued r) ht rfl).mpr rfl⟩
  | answered ht hr hb hu => exact protocolInv_takes (hp.run_issued ht hr) hu

/-- Settles O53: a reset begins a new history, and the events of every move follow the protocol. -/
theorem stepKeepsTheProtocol : Obligations.StepKeepsTheProtocol := by
  intro s t h hp ht
  obtain ⟨-, rfl⟩ | ⟨-, u, hu, rfl⟩ := step_cases (h.noUnit 0) ht
  · exact ⟨.start, rfl, rfl⟩
  · exact protocolInv_turn (u := u) h hp hu

end Sys2Proof.Machine
end

section
/-! SUPPORT. What a run sends to the device: how many of each request (R224, R226, R227), and the bytes of the chunk writes
(R72, R76). Both look at the bus requests of the history alone, and only a transport state adds one. -/

namespace Sys2Proof.Machine

/-! ## The bus requests of a history -/

/-- Is the event the issue of a bus request? -/
def Event.isBus : Event → Bool
  | .issue (.bus _ _ _) => true
  | _ => false

/-- The bus requests of a history, in order. -/
def busEvents (trace : List Event) : List Event := trace.filter Event.isBus

@[simp] theorem busEvents_nil : busEvents [] = [] := rfl

@[simp] theorem busEvents_append (xs ys : List Event) : busEvents (xs ++ ys) = busEvents xs ++ busEvents ys :=
  List.filter_append ..

@[simp] theorem busEvents_out (e : OutEvent) (rest : List Event) : busEvents (.out e :: rest) = busEvents rest := rfl

@[simp] theorem busEvents_answer (a : Reply) (rest : List Event) : busEvents (.answer a :: rest) = busEvents rest := rfl

@[simp] theorem busEvents_img (off : U32) (n : Nat) (rest : List Event) : busEvents (.issue (.img off n) :: rest) = busEvents rest :=
  rfl

@[simp] theorem busEvents_tmr (k : TimerKind) (rest : List Event) : busEvents (.issue (.tmr k) :: rest) = busEvents rest := rfl

/-- The answer to a transport request adds no bus request. -/
theorem Takes.busEvents_eq {q u : State} {a : BusAnswer} (h : Takes q a u) : busEvents u.trace = busEvents q.trace := by
  cases h <;> simp

theorem Takes.outstanding_eq_none {q u : State} {a : BusAnswer} (h : Takes q a u) : u.outstanding = none := by
  cases h <;> rfl

/-- A state that is no transport state adds no bus request. -/
theorem Turn.busEvents_eq {s u : State} (h : Turn s u) (hs : s.fsm.busError = none) : busEvents u.trace = busEvents s.trace := by
  rw [← transportRequest_eq_none_iff] at hs
  cases h
  case waits ht hr hb | answered ht hr hb hu => rw [hs] at ht; cases ht
  case delayed | left | shortRead | fullRead => by_cases hn : s.outstanding = none <;> simp [hn]
  all_goals simp

/-- Nor does it leave a request waiting. -/
theorem Turn.outstanding_eq_none {s u : State} (h : Turn s u) (hs : s.fsm.busError = none) (hn : s.outstanding = none) :
    u.outstanding = none := by
  rw [← transportRequest_eq_none_iff] at hs
  cases h
  case waits ht hr hb | answered ht hr hb hu => rw [hs] at ht; cases ht
  case delayed | left | shortRead | fullRead => rfl
  all_goals exact hn

/-- A transport state puts its request on its port, and may take an answer. -/
theorem Turn.of_transport {s u : State} (h : Turn s u) (hs : s.fsm.busError ≠ none) :
    ∃ r, s.transportRequest = some r ∧ s.ready r = true ∧ (u = s.issued r ∨ ∃ a, Takes (s.issued r) a u) := by
  cases h with
  | waits ht hr hb => exact ⟨_, ht, hr, .inl rfl⟩
  | answered ht hr hb hu => exact ⟨_, ht, hr, .inr ⟨_, hu⟩⟩
  | rests hf =>
    obtain ⟨hf, -⟩ | hf := hf
    · exact absurd (hf ▸ rfl) hs
    · cases hs' : s.fsm <;> simp only [hs', Fsm.terminal, Bool.false_eq_true] at hf <;> exact absurd (hs' ▸ rfl) hs
  | delayed hd => exact absurd (busError_of_delayed hd) hs
  | start hf | valid hf | invalid hf | unsupported hf | upToDate hf | outdated hf | built hf | left hf | shortRead hf
  | fullRead hf | advances hf => exact absurd (hf ▸ rfl) hs

/-! ## Counts -/

theorem issues_eq_busEvents (s : State) (d : BitVec 9) : s.issues d = (busEvents s.trace).countP (Event.issues d) := by
  rw [busEvents, List.countP_filter]
  refine List.countP_congr fun e _ => ?_
  match e with
  | .issue (.bus _ _ _) => simp [Event.isBus]
  | .issue (.img _ _) | .issue (.tmr _) | .answer _ | .out _ => simp [Event.issues]

theorem issues_congr {s u : State} (h : busEvents u.trace = busEvents s.trace) (d : BitVec 9) : u.issues d = s.issues d := by
  rw [issues_eq_busEvents, issues_eq_busEvents, h]

/-- A bus request that is issued now is counted under its descriptor. -/
theorem issues_issued {s : State} {addr : BitVec 7} {desc : BitVec 9} {frame : List Byte} (hw : s.outstanding = none)
    (d : BitVec 9) : (s.issued (.bus addr desc frame)).issues d = s.issues d + if desc = d then 1 else 0 := by
  simp [State.issues, hw, Event.issues, List.countP_append, List.countP_singleton]

/-- A transport state that issues its request counts it as waiting. -/
theorem CountsFit.issued {s : State} {r : PortRequest} (h : CountsFit s) (ht : s.transportRequest = some r)
    (hr : s.ready r = true) : CountsFit (s.issued r) := by
  obtain hw | hw := State.ready_iff.mp hr
  · cases hf : s.fsm <;> simp only [State.transportRequest, hf, reduceCtorEq, Option.some.injEq] at ht <;> subst ht <;>
      simp only [CountsFit, hf, State.waiting, hw, if_true] at h <;>
      simp only [CountsFit, State.issued_fsm, hf, issues_issued hw, State.waiting, State.issued_outstanding, reduceCtorEq, if_false] <;>
      simpa +decide using h
  · have : s.issued r = { s with reply := none } := by
      simp [State.issued, hw]
    rw [this]
    exact h

/-- What the counts of every state have in common, as `FAIL` keeps it. -/
theorem CountsFit.bounds {s : State} (hc : CountsFit s) (h : Inv s) :
    s.issues descIdRead ≤ 1 ∧ s.issues descUnlockWrite ≤ s.issues descIdRead ∧
      s.issues descChunkWrite ≤ s.imgSize.toNat / 128 ∧ s.issues descResetWrite ≤ 1 ∧
      (0 < s.issues descChunkWrite → s.issues descUnlockWrite = 1) ∧
      (s.issues descResetWrite = 1 → s.issues descChunkWrite = s.imgSize.toNat / 128) := by
  have hw : s.waiting ≤ 1 := by
    unfold State.waiting
    split <;> omega
  have hin := h.offsetInside
  cases hf : s.fsm <;> simp only [CountsFit, hf] at hc
  case fail =>
    obtain ⟨h1, h2, h3, h4, h5, h6, -, -⟩ := hc
    exact ⟨h1, h2, h3, h4, h5, h6⟩
  case chunkRead | chunkWrite | chunkSettle | pollRead | pollDelay | advance =>
    have := hin (by rw [hf]; rfl)
    omega
  all_goals omega

/-- The error entry keeps the counts, which it does not change, within the bounds. -/
theorem CountsFit.raiseFatal {s q : State} {c : ErrCode} {i : Byte} {b : Bool} (hc : CountsFit s) (h : Inv s)
    (hbus : busEvents q.trace = busEvents s.trace) (hsize : q.imgSize = s.imgSize)
    (hinvalid : c = .invalidImage → s.fsm = .validate) (hold : c = .unsupportedDevice → s.fsm = .gate) :
    CountsFit (q.raiseFatal c i b) := by
  have hsame : ∀ d, (q.raiseFatal c i b).issues d = s.issues d := issues_congr (by simpa using hbus)
  obtain ⟨h1, h2, h3, h4, h5, h6⟩ := hc.bounds h
  simp only [CountsFit, State.raiseFatal_fsm, hsame, State.raiseFatal_imgSize, hsize, State.raiseFatal_err]
  refine ⟨h1, h2, h3, h4, h5, h6, fun e => ?_, fun e => ?_⟩
  · simp only [CountsFit, hinvalid e] at hc
    exact hc.1
  · simp only [CountsFit, hold e] at hc
    exact hc.2.1

theorem waiting_of_none {s : State} (h : s.outstanding = none) : s.waiting = 0 := if_pos h

theorem busError_ne {f : Fsm} {c : ErrCode} (h : f.busError = some c) : c ≠ .invalidImage ∧ c ≠ .unsupportedDevice := by
  cases f <;> simp only [Fsm.busError, reduceCtorEq] at h <;> cases h <;> exact ⟨nofun, nofun⟩

/-- The answer to a transport request changes no count. -/
theorem CountsFit.takes {q u : State} {a : BusAnswer} (hc : CountsFit q) (h : Inv q) (hw : q.waiting = 1)
    (hu : Takes q a u) : CountsFit u := by
  have hsame : ∀ d, u.issues d = q.issues d := issues_congr hu.busEvents_eq
  have hnone : u.waiting = 0 := waiting_of_none hu.outstanding_eq_none
  cases hu with
  | fails hf =>
    obtain ⟨hinvalid, hold⟩ := busError_ne hf
    exact hc.raiseFatal h (by simp) rfl (fun e => absurd e hinvalid) fun e => absurd e hold
  | rejected | expired | reported => exact hc.raiseFatal h (by simp) rfl nofun nofun
  | identity v hf | unlocked v hf | mustWait v hf | accepted v hf | finished v hf =>
    simp only [CountsFit, hf, hw] at hc
    simp only [CountsFit, hsame, hnone]
    exact hc
  | written v hf =>
    simp only [CountsFit, hsame, hnone]
    cases hq : q.fsm <;> simp only [hq, Fsm.written, reduceCtorEq] at hf <;> obtain rfl := Option.some.inj hf <;>
      simp only [CountsFit, hq, hw] at hc <;> exact hc

/-- The chunk that has been accepted is counted by the offset from now on (R215). -/
theorem CountsFit.advanced {s u : State} (hc : CountsFit s) (h : Inv s) (hf : s.fsm = .advance)
    (hsame : ∀ d, u.issues d = s.issues d) (hoff : u.offset = s.nextOffset) (hsize : u.imgSize = s.imgSize)
    (hfsm : u.fsm = if s.nextOffset = s.imgSize then .finalRead else .chunkRead) : CountsFit u := by
  simp only [CountsFit, hf] at hc
  obtain ⟨hids, hunlocks, hchunks, hresets⟩ := hc
  obtain ⟨-, -, -, -, hend⟩ := h.offset_facts (by rw [hf]; rfl)
  have hnext := nextOffset_toNat hend
  by_cases hlast : s.nextOffset = s.imgSize
  · rw [if_pos hlast] at hfsm
    rw [hlast] at hnext
    simp only [CountsFit, hfsm, hsame, hsize]
    exact ⟨hids, hunlocks, by omega, hresets⟩
  · rw [if_neg hlast] at hfsm
    simp only [CountsFit, hfsm, hsame, hoff]
    exact ⟨hids, hunlocks, by omega, hresets⟩

/-- Every move of a state that is no transport state but the chunk's advance leaves the counts as they are. -/
theorem CountsFit.turn {s u : State} (hc : CountsFit s) (h : Inv s) (hu : Turn s u) : CountsFit u := by
  by_cases hs : s.fsm.busError = none
  case neg =>
    obtain ⟨r, ht, hr, rfl | ⟨a, hu⟩⟩ := hu.of_transport hs
    · exact hc.issued ht hr
    · exact (hc.issued ht hr).takes (h.issued ht) rfl hu
  have hsame : ∀ d, u.issues d = s.issues d := issues_congr (hu.busEvents_eq hs)
  have hw : u.waiting = 0 := waiting_of_none (hu.outstanding_eq_none hs (h.no_request rfl hs))
  cases hu with
  | answered ht hr hb hu | waits ht hr hb => rw [transportRequest_eq_none_iff.mpr hs] at ht; cases ht
  | rests hf => exact hc
  | invalid hf | unsupported hf | shortRead hf =>
    exact hc.raiseFatal h (by simp [h.no_request hf rfl]) rfl (by simp [hf]) (by simp [hf])
  | start hf | valid hf | upToDate hf | outdated hf | built hf | left hf | fullRead hf =>
    simp only [CountsFit, hf] at hc
    simp only [CountsFit, hsame, hw]
    exact hc
  | delayed hd =>
    simp only [CountsFit, hsame, hw]
    cases hf : s.fsm <;> simp only [hf, Fsm.delayed, reduceCtorEq] at hd <;> cases hd <;>
      simp only [CountsFit, hf] at hc <;> exact hc
  | advances hf => exact hc.advanced h hf hsame rfl rfl rfl

/-- Settles O51: a reset clears the counts with the history, and every move keeps them. -/
theorem stepKeepsTheCounts : Obligations.StepKeepsTheCounts := by
  intro s t h hc ht
  obtain ⟨-, rfl⟩ | ⟨-, u, hu, rfl⟩ := step_cases (h.noUnit 0) ht
  · exact ⟨rfl, rfl, rfl, rfl⟩
  · exact hc.turn (u := u) h hu

/-! ## Payload -/

theorem payloadSent_append (xs ys : List Event) : payloadSent (xs ++ ys) = payloadSent xs ++ payloadSent ys := by
  induction xs with
  | nil => rfl
  | cons e rest ih =>
    match e with
    | .issue (.bus _ _ _) => simp [payloadSent, ih]
    | .issue (.img _ _) | .issue (.tmr _) | .answer _ | .out _ => exact ih

theorem payloadSent_busEvents (xs : List Event) : payloadSent (busEvents xs) = payloadSent xs := by
  induction xs with
  | nil => rfl
  | cons e rest ih =>
    match e with
    | .issue (.bus _ _ _) => exact congrArg (_ ++ ·) ih
    | .issue (.img _ _) | .issue (.tmr _) | .answer _ | .out _ => exact ih

theorem payloadSent_congr {s u : State} (h : busEvents u.trace = busEvents s.trace) :
    payloadSent u.trace = payloadSent s.trace := by
  rw [← payloadSent_busEvents, h, payloadSent_busEvents]

/-- The next piece behind what was sent: the image's first bytes, one chunk more. -/
theorem PayloadInv.next_piece {s : State} (h : PayloadInv s) (hf : s.fsm = .chunkWrite)
    (hlen : (payloadSent s.trace).length = s.offset.toNat) :
    payloadSent s.trace ++ s.chunk.toList.take 128 = s.image.readRun 0 (s.offset.toNat + 128) := by
  have himage := h.isImage
  rw [hlen] at himage
  rw [s.image.readRun_add _ _ _ (by rw [← himage, hlen]), Nat.zero_add, ← himage, h.nextPiece hf]

theorem payloadSent_chunkWrite {s : State} {r : PortRequest} (ht : s.transportRequest = some r) (hf : s.fsm = .chunkWrite) :
    payloadSent [.issue r] = s.chunk.toList.take 128 := by
  rw [State.transportRequest, hf] at ht
  obtain rfl := Option.some.inj ht
  exact List.append_nil _

theorem payloadSent_of_ne_chunkWrite {s : State} {r : PortRequest} (ht : s.transportRequest = some r)
    (hf : s.fsm ≠ .chunkWrite) : payloadSent [.issue r] = [] := by
  cases hs : s.fsm <;> simp only [State.transportRequest, hs, reduceCtorEq, Option.some.injEq] at ht <;> subst ht
  case chunkWrite => exact absurd hs hf
  all_goals rfl

/-- A transport state that issues its request sends its payload; only `CHUNK_WRITE` has one. -/
theorem PayloadInv.issued {s : State} {r : PortRequest} (h : PayloadInv s) (ht : s.transportRequest = some r)
    (hr : s.ready r = true) : PayloadInv (s.issued r) := by
  obtain hw | hw := State.ready_iff.mp hr
  case inr =>
    have hsame : s.issued r = { s with reply := none } := by simp [State.issued, hw]
    rw [hsame]
    exact ⟨h.stable, h.isImage, h.nextPiece, h.sentSoFar⟩
  have hsent := h.sentSoFar
  have htrace : (s.issued r).trace = s.trace ++ [.issue r] := by rw [State.issued_trace, if_pos hw]
  have hpay : payloadSent (s.issued r).trace = payloadSent s.trace ++ payloadSent [.issue r] := htrace ▸ payloadSent_append ..
  by_cases hf : s.fsm = .chunkWrite
  case pos =>
    simp only [hf, waiting_of_none hw] at hsent
    rw [payloadSent_chunkWrite ht hf] at hpay
    have hlen : (payloadSent s.trace ++ s.chunk.toList.take 128).length = s.offset.toNat + 128 := by simp [hsent]
    refine ⟨h.stable, ?_, h.nextPiece, ?_⟩
    · rw [hpay, hlen, h.next_piece hf hsent]
      rfl
    · simp only [State.issued_fsm, hf, hpay, hlen]
      rfl
  case neg =>
    rw [payloadSent_of_ne_chunkWrite ht hf, List.append_nil] at hpay
    refine ⟨h.stable, hpay ▸ h.isImage, h.nextPiece, ?_⟩
    cases hs : s.fsm <;> simp only [State.transportRequest, hs, reduceCtorEq] at ht <;> simp only [hs] at hsent <;>
      simp only [State.issued_fsm, hs, hpay]
    case chunkWrite => exact absurd hs hf
    all_goals exact hsent

theorem PayloadInv.takes {q u : State} {a : BusAnswer} (h : PayloadInv q) (hw : q.waiting = 1) (hu : Takes q a u) :
    PayloadInv u := by
  have hpay : payloadSent u.trace = payloadSent q.trace := payloadSent_congr hu.busEvents_eq
  have himage : payloadSent u.trace = q.image.readRun 0 (payloadSent u.trace).length := by
    rw [hpay]
    exact h.isImage
  have hsent := h.sentSoFar
  cases hu with
  | fails | rejected | expired | reported => exact ⟨h.stable, himage, nofun, trivial⟩
  | identity v hf | unlocked v hf | mustWait v hf | accepted v hf | finished v hf =>
    simp only [hf] at hsent
    refine ⟨h.stable, himage, nofun, ?_⟩
    simp only [hpay]
    simp [hsent]
  | written v hf =>
    cases hq : q.fsm <;> simp only [hq, Fsm.written, reduceCtorEq] at hf <;> obtain rfl := Option.some.inj hf <;>
      simp only [hq, hw] at hsent <;> exact ⟨h.stable, himage, nofun, by simp only [hpay]; exact hsent⟩

/-- The chunk that has been accepted is behind the offset from now on (R215). -/
theorem PayloadInv.advanced {s u : State} (h : PayloadInv s) (hlen : (payloadSent s.trace).length = s.offset.toNat + 128)
    (hnext : s.nextOffset.toNat = s.offset.toNat + 128) (henv : u.env = s.env) (himage : u.image = s.image)
    (hregs : u.offset = s.nextOffset ∧ u.imgSize = s.imgSize) (hpay : payloadSent u.trace = payloadSent s.trace)
    (hfsm : u.fsm = if s.nextOffset = s.imgSize then .finalRead else .chunkRead) : PayloadInv u where
  stable := henv ▸ h.stable
  isImage := by
    rw [hpay, himage]
    exact h.isImage
  nextPiece := by
    rw [hfsm]
    split <;> nofun
  sentSoFar := by
    obtain ⟨hoff, hsize⟩ := hregs
    split at hfsm <;> simp only [hfsm, hpay, hoff, hsize]
    next hlast => rw [hlen, ← hnext, hlast]
    next => rw [hlen, hnext]

theorem PayloadInv.turn {s u : State} (hp : PayloadInv s) (h : Inv s) (hu : Turn s u) : PayloadInv u := by
  by_cases hs : s.fsm.busError = none
  case neg =>
    obtain ⟨r, ht, hr, rfl | ⟨a, hu⟩⟩ := hu.of_transport hs
    · exact hp.issued ht hr
    · exact (hp.issued ht hr).takes rfl hu
  have hpay : payloadSent u.trace = payloadSent s.trace := payloadSent_congr (hu.busEvents_eq hs)
  have himage : payloadSent u.trace = s.image.readRun 0 (payloadSent u.trace).length := by
    rw [hpay]
    exact hp.isImage
  have hw : u.waiting = 0 := waiting_of_none (hu.outstanding_eq_none hs (h.no_request rfl hs))
  have hsent := hp.sentSoFar
  cases hu with
  | answered ht hr hb hu | waits ht hr hb => rw [transportRequest_eq_none_iff.mpr hs] at ht; cases ht
  | rests hf => exact hp
  | invalid hf | unsupported hf | shortRead hf => exact ⟨hp.stable, himage, nofun, trivial⟩
  | start hf | valid hf | upToDate hf | outdated hf | built hf | left hf =>
    simp only [hf] at hsent
    exact ⟨hp.stable, himage, nofun, by simp only [hpay]; exact hsent⟩
  | delayed hd =>
    cases hf : s.fsm <;> simp only [hf, Fsm.delayed, reduceCtorEq] at hd <;> cases hd <;> simp only [hf] at hsent <;>
      exact ⟨hp.stable, himage, nofun, by simp only [hpay]; exact hsent⟩
  | fullRead hf hr hd =>
    simp only [hf] at hsent
    refine ⟨hp.stable, himage, fun _ => ?_, by simp only [hpay, hw]; exact hsent⟩
    obtain ⟨hrun, hlen⟩ := imageBytes_full hd
    rw [full_chunk_toList hd, List.take_left' hlen]
    exact hrun
  | advances hf =>
    simp only [hf] at hsent
    obtain ⟨-, -, -, -, hend⟩ := h.offset_facts (by rw [hf]; rfl)
    exact hp.advanced hsent (nextOffset_toNat hend) rfl rfl ⟨rfl, rfl⟩ hpay rfl

/-- The end of a step keeps it, the image being stable (R297). -/
theorem PayloadInv.endStep {u : State} (h : PayloadInv u) : PayloadInv u.endStep := by
  have himage : u.endStep.image = u.image := by
    rw [State.endStep_image, show u.port.imgSet = [] from h.stable 0, Memory.update_nil]
  exact ⟨fun n => h.stable (n + 1), himage ▸ h.isImage, himage ▸ h.nextPiece, h.sentSoFar⟩

/-- Settles O52: a reset clears what was sent with the history, and every move keeps that it is the image's beginning. -/
theorem stepKeepsThePayload : Obligations.StepKeepsThePayload := by
  intro s t h hp ht
  obtain ⟨-, rfl⟩ | ⟨-, u, hu, rfl⟩ := step_cases (h.noUnit 0) ht
  · exact PayloadInv.endStep ⟨hp.stable, rfl, nofun, rfl⟩
  · exact (hp.turn h hu).endStep

end Sys2Proof.Machine
end

section
/-! SUPPORT. The statements about the encodings (30_encoding.md): `decode` and `encode` are inverse to each other, port by port, and
no other word has a meaning. -/

namespace Sys2Proof.Machine

/-! ## Fields of joined words -/

theorem extract_low_append {n m : Nat} (x : BitVec n) (y : BitVec m) : (x ++ y).extractLsb' 0 m = y :=
  extract_low rfl x y

theorem extract_high_append {n m : Nat} (x : BitVec n) (y : BitVec m) : (x ++ y).extractLsb' m n = x :=
  extract_high rfl x y

/-- A field above the low part lies in the high part. -/
theorem extract_above_append {n m k : Nat} (x : BitVec n) (y : BitVec m) (len : Nat) (h : m ≤ k) :
    (x ++ y).extractLsb' k len = x.extractLsb' (k - m) len := by
  obtain ⟨j, rfl⟩ := Nat.exists_eq_add_of_le h
  rw [Nat.add_sub_cancel_left]
  exact extract_in_high rfl x y j len

/-! ## Decoding an encoded operation -/

theorem decodeCrc_append (op : BitVec 2) (din : Byte) : decodeCrc (op ++ din) =
    if op = 0#2 then .ok (.crcNop din) else if op = 1#2 then .ok (.crcClear din)
    else if op = 2#2 then .ok (.crcUpdate din) else .error .reservedCrcOp := by
  have hop : (op ++ din).extractLsb' 8 2 = op := extract_high_append op din
  have hdin : (op ++ din).extractLsb' 0 8 = din := extract_low_append op din
  simp only [decodeCrc, hop, hdin]

theorem decodeImg_append (off : U32) : decodeImg (128#8 ++ off) = .ok (.imgRead off) := by
  have hn : (128#8 ++ off).extractLsb' 32 8 = 128#8 := extract_high_append 128#8 off
  have hoff : (128#8 ++ off).extractLsb' 0 32 = off := extract_low_append 128#8 off
  simp only [decodeImg, hn, hoff, if_true]

theorem decodeOut_progress (remaining total : U32) :
    decodeOut (total ++ remaining ++ 0#2) = .ok (.outProgress remaining total) := by
  have htag : (total ++ remaining ++ 0#2).extractLsb' 0 2 = 0#2 := extract_low_append ..
  have hremaining : (total ++ remaining ++ 0#2).extractLsb' 2 32 = remaining :=
    (extract_above_append _ _ _ (by decide)).trans (extract_low_append ..)
  have htotal : (total ++ remaining ++ 0#2).extractLsb' 34 32 = total :=
    (extract_above_append _ _ _ (by decide)).trans (extract_high_append ..)
  simp only [decodeOut, htag, hremaining, htotal, if_true]

theorem decodeOut_info (kind : InfoKind) : decodeOut (0#62 ++ kind.toBits ++ 1#2) = .ok (.outInfo kind) := by
  have htag : (0#62 ++ kind.toBits ++ 1#2).extractLsb' 0 2 = 1#2 := extract_low_append ..
  have hkind : (0#62 ++ kind.toBits ++ 1#2).extractLsb' 2 2 = kind.toBits :=
    (extract_above_append _ _ _ (by decide)).trans (extract_low_append ..)
  have habove : (0#62 ++ kind.toBits ++ 1#2).extractLsb' 4 62 = 0#62 :=
    (extract_above_append _ _ _ (by decide)).trans (extract_high_append ..)
  simp [decodeOut, htag, decodeOutInfo, hkind, InfoKind.ofBits_toBits, habove]

theorem decodeOut_diag (code : ErrCode) (info : Byte) (bus : Bool) :
    decodeOut (0#51 ++ BitVec.ofBool bus ++ info ++ code.toBits ++ 2#2) = .ok (.outDiag code info bus) := by
  have htag : (0#51 ++ BitVec.ofBool bus ++ info ++ code.toBits ++ 2#2).extractLsb' 0 2 = 2#2 := extract_low_append ..
  have hcode : (0#51 ++ BitVec.ofBool bus ++ info ++ code.toBits ++ 2#2).extractLsb' 2 4 = code.toBits :=
    (extract_above_append _ _ _ (by decide)).trans (extract_low_append ..)
  have hinfo : (0#51 ++ BitVec.ofBool bus ++ info ++ code.toBits ++ 2#2).extractLsb' 6 8 = info := by
    rw [extract_above_append _ _ _ (by decide), extract_above_append _ _ _ (by decide)]
    exact extract_low_append ..
  have hbus : (0#51 ++ BitVec.ofBool bus ++ info ++ code.toBits ++ 2#2).getLsbD 14 = bus := by
    simp only [BitVec.getLsbD_append]
    simp
  have habove : (0#51 ++ BitVec.ofBool bus ++ info ++ code.toBits ++ 2#2).extractLsb' 15 51 = 0#51 := by
    rw [extract_above_append _ _ _ (by decide), extract_above_append _ _ _ (by decide), extract_above_append _ _ _ (by decide)]
    exact extract_high_append ..
  simp [decodeOut, htag, decodeOutDiag, hcode, ErrCode.ofBits_toBits, hinfo, hbus, habove, -BitVec.getLsbD_eq_getElem]

/-- Settles O7: each port's decoder reads back the fields the encoder joined. -/
theorem decodeInvertsEncode : Obligations.DecodeInvertsEncode := by
  intro i
  cases i with
  | crcNop din => exact decodeCrc_append 0#2 din
  | crcClear din => exact decodeCrc_append 1#2 din
  | crcUpdate din => exact decodeCrc_append 2#2 din
  | busIdRead | busUnlockWrite | busStatusRead | busChunkWrite | busResetWrite => rfl
  | imgRead off => exact decodeImg_append off
  | tmrUnlockSettle | tmrChunkSettle | tmrPoll | tmrResetExit => rfl
  | outProgress remaining total => exact decodeOut_progress remaining total
  | outInfo kind => exact decodeOut_info kind
  | outDiag code info bus => exact decodeOut_diag code info bus
  | ctlStart => rfl
  | ctlReset start => cases start <;> rfl

/-! ## Encoding a decoded word -/

theorem encode_decodeCrc {w : BitVec 10} {i : Instr} (h : decodeCrc w = .ok i) : encode i = .crc w := by
  have hjoin : w.extractLsb' 8 2 ++ w.extractLsb' 0 8 = w := join_fields (n := 2) (m := 8) rfl w
  simp only [decodeCrc] at h
  split at h
  next hop =>
    cases h
    rw [hop] at hjoin
    exact congrArg PortWord.crc hjoin
  split at h
  next hop =>
    cases h
    rw [hop] at hjoin
    exact congrArg PortWord.crc hjoin
  split at h
  next hop =>
    cases h
    rw [hop] at hjoin
    exact congrArg PortWord.crc hjoin
  cases h

theorem encode_decodeBus {w : BitVec 9} {i : Instr} (h : decodeBus w = .ok i) : encode i = .bus w := by
  unfold decodeBus at h
  split_ifs at h with h1 h2 h3 h4 h5 <;> cases h
  exacts [congrArg PortWord.bus h1.symm, congrArg PortWord.bus h2.symm, congrArg PortWord.bus h3.symm,
    congrArg PortWord.bus h4.symm, congrArg PortWord.bus h5.symm]

theorem encode_decodeImg {w : BitVec 40} {i : Instr} (h : decodeImg w = .ok i) : encode i = .img w := by
  have hjoin : w.extractLsb' 32 8 ++ w.extractLsb' 0 32 = w := join_fields (n := 8) (m := 32) rfl w
  unfold decodeImg at h
  split_ifs at h with hn
  cases h
  rw [hn] at hjoin
  exact congrArg PortWord.img hjoin

theorem encode_decodeTmr {w : BitVec 2} {i : Instr} (h : decodeTmr w = .ok i) : encode i = .tmr w := by
  unfold decodeTmr at h
  split_ifs at h with h0 h1 h2 <;> cases h
  · exact congrArg PortWord.tmr h0.symm
  · exact congrArg PortWord.tmr h1.symm
  · exact congrArg PortWord.tmr h2.symm
  · have h3 : w = 3#2 := by
      revert w
      decide
    exact congrArg PortWord.tmr h3.symm

theorem encode_decodeCtl {w : BitVec 2} {i : Instr} (h : decodeCtl w = .ok i) : encode i = .ctl w := by
  unfold decodeCtl at h
  split_ifs at h with hrst hstart <;> cases h
  · have hw : 1#1 ++ BitVec.ofBool (w.getLsbD 0) = w := by
      revert w
      decide
    exact congrArg PortWord.ctl hw
  · have hw : 1#2 = w := by
      revert w
      decide
    exact congrArg PortWord.ctl hw

/-- The fields above a tag and the tag make up an `OUT_EVT` word. -/
theorem join_tag {w : BitVec 66} {tag : BitVec 2} {fields : BitVec 64} (htag : w.extractLsb' 0 2 = tag)
    (hfields : fields = w.extractLsb' 2 64) : (fields ++ tag : BitVec 66) = w := by
  rw [hfields, ← htag]
  exact join_fields (n := 64) (m := 2) rfl w

theorem encode_decodeOut_progress {w : BitVec 66} (htag : w.extractLsb' 0 2 = 0#2) :
    encode (.outProgress (w.extractLsb' 2 32) (w.extractLsb' 34 32)) = .out w :=
  congrArg PortWord.out (join_tag htag (BitVec.extractLsb'_append_extractLsb'_eq_extractLsb' rfl))

theorem encode_decodeOutInfo {w : BitVec 66} {i : Instr} (htag : w.extractLsb' 0 2 = 1#2) (h : decodeOutInfo w = .ok i) :
    encode i = .out w := by
  unfold decodeOutInfo at h
  split at h
  next => cases h
  next kind hkind =>
    split_ifs at h with habove
    cases h
    refine congrArg PortWord.out (join_tag htag ?_)
    rw [← habove, InfoKind.toBits_of_ofBits hkind]
    exact BitVec.extractLsb'_append_extractLsb'_eq_extractLsb' rfl

theorem ofBool_getLsbD {n : Nat} (w : BitVec n) (k : Nat) : BitVec.ofBool (w.getLsbD k) = w.extractLsb' k 1 := by
  apply BitVec.eq_of_getLsbD_eq
  intro i hi
  obtain rfl : i = 0 := by omega
  simp

theorem encode_decodeOutDiag {w : BitVec 66} {i : Instr} (htag : w.extractLsb' 0 2 = 2#2) (h : decodeOutDiag w = .ok i) :
    encode i = .out w := by
  unfold decodeOutDiag at h
  split at h
  next => cases h
  next code hcode =>
    split_ifs at h with habove
    cases h
    refine congrArg PortWord.out (join_tag htag ?_)
    have hbus : w.extractLsb' 15 51 ++ w.extractLsb' 14 1 = w.extractLsb' 14 52 :=
      BitVec.extractLsb'_append_extractLsb'_eq_extractLsb' rfl
    have hinfo : w.extractLsb' 14 52 ++ w.extractLsb' 6 8 = w.extractLsb' 6 60 :=
      BitVec.extractLsb'_append_extractLsb'_eq_extractLsb' rfl
    rw [← habove, ofBool_getLsbD, ErrCode.toBits_of_ofBits hcode, hbus, hinfo]
    exact BitVec.extractLsb'_append_extractLsb'_eq_extractLsb' rfl

theorem encode_decodeOut {w : BitVec 66} {i : Instr} (h : decodeOut w = .ok i) : encode i = .out w := by
  simp only [decodeOut] at h
  split_ifs at h with h0 h1 h2
  · cases h
    exact encode_decodeOut_progress h0
  · exact encode_decodeOutInfo h1 h
  · exact encode_decodeOutDiag h2 h

/-- Settles O8: on each port the fields the decoder reads make up the word. -/
theorem encodeInvertsDecode : Obligations.EncodeInvertsDecode := by
  intro w i h
  cases w with
  | crc w => exact encode_decodeCrc h
  | bus w => exact encode_decodeBus h
  | img w => exact encode_decodeImg h
  | tmr w => exact encode_decodeTmr h
  | out w => exact encode_decodeOut h
  | ctl w => exact encode_decodeCtl h

/-! ## Words without a meaning -/

/-- A word presented to a unit that is no operation, `CTL` = 00 apart, is refused by its name (log entry 6). -/
theorem step_of_refused {s : State} {w : PortWord} {e : DecodeError} (hrst : s.port.rst = false) (hunit : s.port.unit = some w)
    (hdecode : decode w = .error e) (he : e ≠ .noCommand) : step s = .refused (.encoding e) := by
  have hrun : runUnit w s = .refused (.encoding e) := by
    simp only [runUnit, hdecode]
  simp [step, cycle, perform, operate, hrst, hunit, hrun]

/-- Settles O10: each reserved or unused word fails its port's test, and an encoded operation decodes. -/
theorem unusedWordsAreRefused : Obligations.UnusedWordsAreRefused := by
  refine ⟨fun w hop => ?_, fun w hw => ?_, fun w hn => if_neg hn, fun w htag => ?_, fun w htag hkind => ?_, fun w e hw i hi => ?_,
    fun s w e => step_of_refused⟩
  · simp [decode, decodeCrc, hop]
  · simp only [List.mem_cons, List.not_mem_nil, not_or] at hw
    obtain ⟨h1, h2, h3, h4, h5, -⟩ := hw
    exact (if_neg h1).trans <| (if_neg h2).trans <| (if_neg h3).trans <| (if_neg h4).trans (if_neg h5)
  · simp [decode, decodeOut, htag]
  · have hnone : InfoKind.ofBits (w.extractLsb' 2 2) = none := by rw [hkind]; rfl
    simp [decode, decodeOut, htag, decodeOutInfo, hnone]
  · rw [← hi, decodeInvertsEncode i] at hw
    cases hw

/-- Settles O9: a row of the table decodes by evaluation. -/
theorem specWordsDecode : Obligations.SpecWordsDecode := by
  exact ⟨rfl, rfl, rfl, rfl, rfl, rfl, rfl, rfl, rfl, rfl, rfl, rfl, rfl, rfl, rfl, rfl⟩

/-! ## The status word -/

theorem terminal_iff (f : Fsm) : f.terminal = decide (f = .complete ∨ f = .upToDate ∨ f = .fail) := by
  cases f <;> rfl

theorem seqStatus_term (s : State) : s.seqStatus.getLsbD 5 = s.term := by
  simp only [State.seqStatus, BitVec.getLsbD_append]
  simp

/-- Settles O44: each field of R57 is one of the joined parts, at the place its predecessors' widths give it. -/
theorem seqStatusFields : Obligations.SeqStatusFields := by
  refine ⟨fun s => ⟨extract_low_append .., ?_, ?_, ?_, ?_, ?_, ?_, ?_⟩, rfl⟩
  · rw [seqStatus_term, State.term, terminal_iff]
  · rw [seqStatus_term]
    simp only [State.seqStatus, BitVec.getLsbD_append]
    simp [State.exitFlag]
  · simp only [State.seqStatus, BitVec.getLsbD_append]
    simp
  · unfold State.seqStatus
    iterate 4 rw [extract_above_append _ _ _ (by decide)]
    exact extract_low_append ..
  · unfold State.seqStatus
    iterate 5 rw [extract_above_append _ _ _ (by decide)]
    exact extract_low_append ..
  · simp only [State.seqStatus, BitVec.getLsbD_append]
    simp
  · unfold State.seqStatus
    iterate 7 rw [extract_above_append _ _ _ (by decide)]
    rfl

end Sys2Proof.Machine
end

section
/-! SUPPORT. No rule reads a register that holds no value (R60): a state in which such registers are other than in `s` makes the
same moves as `s`. -/

namespace Sys2Proof.Machine

/-- `s` with the registers that may hold no value as in `t`. -/
def State.withUnwritten (s t : State) : State :=
  { s with
    imgSize := t.imgSize, imgRev := t.imgRev, imgMagic := t.imgMagic, devRev := t.devRev, idblk := t.idblk, ubuf := t.ubuf,
    offset := t.offset, chunk := t.chunk, st := t.st }

/-- The clauses of `AgreeOnWritten` on the registers that hold a value in state `f` of the sequencer. -/
structure AgreesAt (f : Fsm) (s t : State) : Prop where
  footer : decide (f = .idle) = false → f.terminal = false →
    t.imgSize = s.imgSize ∧ t.imgRev = s.imgRev ∧ t.imgMagic = s.imgMagic
  devRev : f.identified → f.terminal = false → t.devRev = s.devRev
  ubuf : f.built → f.terminal = false → t.ubuf = s.ubuf
  offset : f.transferring → t.offset = s.offset
  chunk : f.transferring → f.loaded → t.chunk = s.chunk

theorem agreeOnWritten_iff {s t : State} : AgreeOnWritten s t ↔ t = s.withUnwritten t ∧ AgreesAt s.fsm s t := by
  constructor
  · rintro ⟨hsame, hfooter, hdev, hubuf, hoff, hchunk⟩
    exact ⟨hsame, fun hf => hfooter (of_decide_eq_false hf), hdev, hubuf, hoff, hchunk⟩
  · rintro ⟨hsame, h⟩
    exact ⟨hsame, fun hf => h.footer (decide_eq_false hf), h.devRev, h.ubuf, h.offset, h.chunk⟩

/-- In a terminal state no register need agree. -/
theorem agreesAt_of_terminal {f : Fsm} {s t : State} (hf : f.terminal = true) : AgreesAt f s t := by
  cases f <;> simp only [Fsm.terminal, Bool.false_eq_true] at hf <;> exact ⟨nofun, nofun, nofun, nofun, nofun⟩

theorem agreesAt_rfl {f : Fsm} {s : State} : AgreesAt f s s :=
  ⟨fun _ _ => ⟨rfl, rfl, rfl⟩, fun _ _ => rfl, fun _ _ => rfl, fun _ => rfl, fun _ _ => rfl⟩

theorem AgreesAt.at_fsm {f : Fsm} {s t : State} (h : AgreesAt s.fsm s t) (hf : s.fsm = f) : AgreesAt f s t := hf ▸ h

/-- The request of a transport state is made of registers that hold a value there. -/
theorem AgreesAt.transportRequest {s t : State} (h : AgreesAt s.fsm s t) :
    (s.withUnwritten t).transportRequest = s.transportRequest := by
  have hfsm : (s.withUnwritten t).fsm = s.fsm := rfl
  cases hf : s.fsm <;> simp only [State.transportRequest, hfsm, hf]
  case unlockWrite => rw [show (s.withUnwritten t).ubuf = s.ubuf from (h.at_fsm hf).ubuf rfl rfl]
  case chunkWrite => rw [show (s.withUnwritten t).chunk = s.chunk from (h.at_fsm hf).chunk rfl rfl]

theorem Takes.agree {q u t : State} {a : BusAnswer} (h : AgreesAt q.fsm q t) (hu : Takes q a u) :
    ∃ v, Takes (q.withUnwritten t) a v ∧ AgreeOnWritten u v := by
  cases hu with
  | fails hc => exact ⟨_, .fails hc, agreeOnWritten_iff.mpr ⟨rfl, agreesAt_of_terminal rfl⟩⟩
  | identity v hf => exact ⟨_, .identity v hf, agreeOnWritten_iff.mpr ⟨rfl, { h.at_fsm hf with devRev := fun _ _ => rfl }⟩⟩
  | written v hf =>
    refine ⟨_, .written v hf, agreeOnWritten_iff.mpr ⟨rfl, ?_⟩⟩
    cases hq : q.fsm <;> simp only [hq, Fsm.written, reduceCtorEq] at hf <;> obtain rfl := Option.some.inj hf <;>
      exact { h.at_fsm hq with }
  | unlocked v hf hv =>
    exact ⟨_, .unlocked v hf hv, agreeOnWritten_iff.mpr ⟨rfl, { h.at_fsm hf with offset := fun _ => rfl, chunk := nofun }⟩⟩
  | rejected v hf hv => exact ⟨_, .rejected v hf hv, agreeOnWritten_iff.mpr ⟨rfl, agreesAt_of_terminal rfl⟩⟩
  | expired v hf hv hw => exact ⟨_, .expired v hf hv hw, agreeOnWritten_iff.mpr ⟨rfl, agreesAt_of_terminal rfl⟩⟩
  | mustWait v hf hv hw => exact ⟨_, .mustWait v hf hv hw, agreeOnWritten_iff.mpr ⟨rfl, { h.at_fsm hf with }⟩⟩
  | accepted v hf hv => exact ⟨_, .accepted v hf hv, agreeOnWritten_iff.mpr ⟨rfl, { h.at_fsm hf with }⟩⟩
  | reported v hf h1 h2 h3 => exact ⟨_, .reported v hf h1 h2 h3, agreeOnWritten_iff.mpr ⟨rfl, agreesAt_of_terminal rfl⟩⟩
  | finished v hf => exact ⟨_, .finished v hf, agreeOnWritten_iff.mpr ⟨rfl, { h.at_fsm hf with }⟩⟩

theorem Turn.agree {s u t : State} (h : AgreesAt s.fsm s t) (hu : Turn s u) :
    ∃ v, Turn (s.withUnwritten t) v ∧ AgreeOnWritten u v := by
  cases hu with
  | start hf hs =>
    exact ⟨_, .start hf hs, agreeOnWritten_iff.mpr ⟨rfl, { h.at_fsm hf with footer := fun _ _ => ⟨rfl, rfl, rfl⟩ }⟩⟩
  | rests hf => exact ⟨_, .rests hf, agreeOnWritten_iff.mpr ⟨rfl, { h with }⟩⟩
  | valid hf hv =>
    obtain ⟨hsize, -, hmagic⟩ := (h.at_fsm hf).footer rfl rfl
    have hv' : t.imgMagic = Config.footerMagic ∧ goodSize t.imgSize = true := by rwa [hsize, hmagic]
    exact ⟨_, .valid hf hv', agreeOnWritten_iff.mpr ⟨rfl, { h.at_fsm hf with }⟩⟩
  | invalid hf hv =>
    obtain ⟨hsize, -, hmagic⟩ := (h.at_fsm hf).footer rfl rfl
    have hv' : ¬ (t.imgMagic = Config.footerMagic ∧ goodSize t.imgSize = true) := by rwa [hsize, hmagic]
    exact ⟨_, .invalid hf hv', agreeOnWritten_iff.mpr ⟨rfl, agreesAt_of_terminal rfl⟩⟩
  | unsupported hf hlow =>
    have hdev := (h.at_fsm hf).devRev rfl rfl
    exact ⟨_, .unsupported hf (hdev ▸ hlow : t.devRev < Config.minRev), agreeOnWritten_iff.mpr ⟨rfl, agreesAt_of_terminal rfl⟩⟩
  | upToDate hf hmin heq =>
    have hdev := (h.at_fsm hf).devRev rfl rfl
    obtain ⟨-, hrev, -⟩ := (h.at_fsm hf).footer rfl rfl
    have heq' : t.devRev = t.imgRev.setWidth 16 := by rwa [hdev, hrev]
    exact ⟨_, .upToDate hf (hdev ▸ hmin : Config.minRev ≤ t.devRev) heq', agreeOnWritten_iff.mpr ⟨rfl, agreesAt_of_terminal rfl⟩⟩
  | outdated hf hmin hne =>
    have hdev := (h.at_fsm hf).devRev rfl rfl
    obtain ⟨-, hrev, -⟩ := (h.at_fsm hf).footer rfl rfl
    have hne' : t.devRev ≠ t.imgRev.setWidth 16 := by rwa [hdev, hrev]
    exact ⟨_, .outdated hf (hdev ▸ hmin : Config.minRev ≤ t.devRev) hne', agreeOnWritten_iff.mpr ⟨rfl, { h.at_fsm hf with }⟩⟩
  | built hf =>
    obtain ⟨hsize, hrev, hmagic⟩ := (h.at_fsm hf).footer rfl rfl
    have hsize : (s.withUnwritten t).imgSize = s.imgSize := hsize
    refine ⟨_, .built hf, agreeOnWritten_iff.mpr ?_⟩
    rw [hsize]
    exact ⟨rfl, { h.at_fsm hf with footer := fun _ _ => ⟨rfl, hrev, hmagic⟩, ubuf := fun _ _ => rfl }⟩
  | delayed hd hr =>
    refine ⟨_, .delayed hd hr, agreeOnWritten_iff.mpr ⟨rfl, ?_⟩⟩
    cases hs : s.fsm <;> simp only [hs, Fsm.delayed, reduceCtorEq] at hd <;> cases hd <;> exact { h.at_fsm hs with }
  | left hf hr => exact ⟨_, .left hf hr, agreeOnWritten_iff.mpr ⟨rfl, agreesAt_of_terminal rfl⟩⟩
  | shortRead hf hr hd =>
    have hoff : (s.withUnwritten t).offset = s.offset := (h.at_fsm hf).offset rfl
    have hmove := Turn.shortRead (s := s.withUnwritten t) hf
    rw [hoff] at hmove
    exact ⟨_, hmove hr hd, agreeOnWritten_iff.mpr ⟨rfl, agreesAt_of_terminal rfl⟩⟩
  | fullRead hf hr hd =>
    have hoff : (s.withUnwritten t).offset = s.offset := (h.at_fsm hf).offset rfl
    have hmove := Turn.fullRead (s := s.withUnwritten t) hf
    rw [hoff] at hmove
    exact ⟨_, hmove hr hd, agreeOnWritten_iff.mpr ⟨rfl, { h.at_fsm hf with chunk := fun _ _ => rfl }⟩⟩
  | advances hf =>
    have hoff : (s.withUnwritten t).nextOffset = s.nextOffset := congrArg (· + 128#32) ((h.at_fsm hf).offset rfl)
    have hsize : (s.withUnwritten t).imgSize = s.imgSize := ((h.at_fsm hf).footer rfl rfl).1
    have hmove := Turn.advances (s := s.withUnwritten t) hf
    rw [hoff, hsize] at hmove
    refine ⟨_, hmove, agreeOnWritten_iff.mpr ⟨rfl, ?_⟩⟩
    dsimp only
    split
    · exact { h.at_fsm hf with offset := nofun, chunk := nofun }
    · exact { h.at_fsm hf with offset := fun _ => rfl, chunk := nofun }
  | waits ht hr hb => exact ⟨_, .waits (h.transportRequest.trans ht) hr hb, agreeOnWritten_iff.mpr ⟨rfl, { h with }⟩⟩
  | @answered r a u ht hr hb hu =>
    obtain ⟨v, hv, hagree⟩ := Takes.agree (q := s.issued r) (t := t) { h with } hu
    exact ⟨v, .answered (h.transportRequest.trans ht) hr hb hv, hagree⟩

theorem AgreeOnWritten.endStep {u v : State} (h : AgreeOnWritten u v) : AgreeOnWritten u.endStep v.endStep := by
  obtain ⟨hsame, hregs⟩ := agreeOnWritten_iff.mp h
  refine agreeOnWritten_iff.mpr ⟨?_, { hregs with }⟩
  rw [hsame]
  rfl

/-- Settles O58: a reset forgets the registers, and every move has its like in the state that agrees. -/
theorem unwrittenRegistersAreNotRead : Obligations.UnwrittenRegistersAreNotRead := by
  intro s s' t hagree hunit hs
  obtain ⟨hsame, h⟩ := agreeOnWritten_iff.mp hagree
  rw [hsame]
  obtain ⟨hrst, rfl⟩ | ⟨hq, u, hu, rfl⟩ := step_cases hunit hs
  · exact ⟨_, step_of_rst (s := s.withUnwritten t) hrst, agreeOnWritten_iff.mpr ⟨rfl, agreesAt_rfl⟩⟩
  · obtain ⟨v, hv, huv⟩ := hu.agree h
    exact ⟨_, (step_eq_next_iff_turn (s := s.withUnwritten t) hq).mpr ⟨v, hv, rfl⟩, huv.endStep⟩

end Sys2Proof.Machine
end

section
/-! SUPPORT. The operations (41_transactions.md, 40_crc8.md): what each can do to the state, whoever issues it. -/

namespace Sys2Proof.Machine

/-! ## The generator -/

/-- The byte an operation folds into `crc`, if it is an update. -/
def Instr.updateByte : Instr → Option Byte
  | .crcUpdate x => some x
  | _ => none

/-- Updates with `CRC.NOP` between them fold the updates' bytes into `crc` and change nothing else. -/
theorem runOps_crc (ops : List Instr) (s : State) (hops : ∀ i ∈ ops, ∃ x, i = .crcUpdate x ∨ i = .crcNop x) :
    runOps ops s = .next { s with crc := crcRun s.crc (ops.filterMap Instr.updateByte) } := by
  induction ops generalizing s with
  | nil => rfl
  | cons i rest ih =>
    obtain ⟨⟨x, rfl | rfl⟩, hrest⟩ := List.forall_mem_cons.mp hops
    · rw [runOps, exec_crcUpdate, andThen_next, ih _ hrest]
      rfl
    · rw [runOps, exec_crcNop, andThen_next, ih _ hrest]
      rfl

/-- Settles O4: the clear puts `crc8`'s initial value in `crc`, and the updates fold their bytes into it. -/
theorem generatorComputesCrc8 : Obligations.GeneratorComputesCrc8 := by
  intro d ops s hops
  rw [runOps, exec_crcClear, andThen_next, runOps_crc ops _ hops, ← crc8_eq_crcRun]
  rfl

/-! ## Everything an operation can do -/

/-- The states an operation can lead to. -/
inductive Effect (s : State) : Instr → State → Prop
  | nop (d : Byte) : Effect s (.crcNop d) s
  | clear (d : Byte) : Effect s (.crcClear d) { s with crc := 0x00#8 }
  | update (d : Byte) : Effect s (.crcUpdate d) { s with crc := crcT (s.crc ^^^ d) }
  | waits {i : Instr} {r : PortRequest} (hl : r.lawful) (hr : s.ready r = true) : Effect s i (s.issued r)
  | answers {i : Instr} {r : PortRequest} (a : Reply) (hl : r.lawful) (hr : s.ready r = true) :
      Effect s i ((s.issued r).answered a)
  | emits (e : OutEvent) : Effect s e.toInstr (s.emit e)
  | starts (hf : s.fsm = .idle) : Effect s .ctlStart { s with
      imgSize := s.port.footer.binSize, imgRev := s.port.footer.revision, imgMagic := s.port.footer.magic, fsm := .validate }
  | ignores (hf : s.fsm ≠ .idle) : Effect s .ctlStart s
  | resets (b : Bool) : Effect s (.ctlReset b) s.resetBlock

theorem effect_of_transport {s t : State} {i : Instr} {d : BitVec 9} {frame : List Byte}
    (hl : (PortRequest.bus Config.devAddr d frame).lawful) (h : transport d frame s = .next t) : Effect s i t := by
  obtain ⟨hr, rfl⟩ := transport_eq_next.mp h
  cases s.port.bus with
  | none => exact .waits hl hr
  | some a => exact .answers _ hl hr

theorem effect_of_delay {s t : State} {i : Instr} {k : TimerKind} (h : delay k s = .next t) : Effect s i t := by
  obtain ⟨hr, rfl⟩ := delay_eq_next.mp h
  exact .answers _ trivial hr

theorem effect_of_exec {s t : State} {i : Instr} (h : exec i s = .next t) : Effect s i t := by
  cases i with
  | crcNop d => cases h; exact .nop d
  | crcClear d => cases h; exact .clear d
  | crcUpdate d => cases h; exact .update d
  | busIdRead => exact effect_of_transport ⟨rfl, .inl ⟨.inl rfl, rfl⟩⟩ h
  | busStatusRead => exact effect_of_transport ⟨rfl, .inl ⟨.inr rfl, rfl⟩⟩ h
  | busUnlockWrite => exact effect_of_transport ⟨rfl, .inr (.inl ⟨rfl, by simp⟩)⟩ h
  | busChunkWrite => exact effect_of_transport ⟨rfl, .inr (.inr (.inl ⟨rfl, by simp⟩))⟩ h
  | busResetWrite => exact effect_of_transport ⟨rfl, .inr (.inr (.inr ⟨rfl, rfl⟩))⟩ h
  | imgRead off =>
    obtain ⟨hr, rfl⟩ := memRead_eq_next.mp h
    exact .answers _ rfl hr
  | tmrUnlockSettle | tmrChunkSettle | tmrPoll | tmrResetExit => exact effect_of_delay h
  | outProgress remaining total => cases h; exact .emits (.progress remaining total)
  | outInfo kind => cases h; exact .emits (.info kind)
  | outDiag code info bus => cases h; exact .emits (.diag code info bus)
  | ctlStart =>
    by_cases hf : s.fsm = .idle
    · rw [exec_ctlStart_of_idle hf] at h
      cases h
      exact .starts hf
    · rw [exec_ctlStart_of_not_idle hf] at h
      cases h
      exact .ignores hf
  | ctlReset b => cases h; exact .resets b

/-- Settles O11: each effect but the two commands' writes nothing but the five fields named. -/
theorem operationsTouchOnlyTheirOwn : Obligations.OperationsTouchOnlyTheirOwn := by
  intro i s t hstart hreset h
  cases effect_of_exec h with
  | nop | waits | answers => exact ⟨rfl, fun _ => rfl, fun _ => rfl⟩
  | clear d => exact ⟨rfl, fun hi => absurd rfl (hi d).1, fun _ => rfl⟩
  | update d => exact ⟨rfl, fun hi => absurd rfl (hi d).2, fun _ => rfl⟩
  | emits e => exact ⟨rfl, fun _ => rfl, fun hi => absurd rfl (hi e)⟩
  | starts | ignores => exact absurd rfl hstart
  | resets b => exact absurd rfl (hreset b)

/-! ## What a step is, whatever is presented -/

/-- A step before the input ports move on: the reset, an operation of a unit run alone or `CTL` = 00 there, or a move. -/
theorem perform_cases {s u : State} (h : perform s = .next u) :
    u = s.resetBlock ∨ u = s ∨ (∃ i, Effect s i u) ∨ Turn s u := by
  cases hrst : s.port.rst with
  | true =>
    simp only [perform, hrst, if_true, exec, execCtlReset, Host.Outcome.next.injEq] at h
    exact .inl h.symm
  | false =>
    cases hunit : s.port.unit with
    | none => exact .inr (.inr (.inr ((perform_eq_next_iff_turn (quiet_iff.mpr ⟨hrst, hunit⟩)).mp h)))
    | some w =>
      have hrun : runUnit w s = .next u := by simpa [perform, operate, hrst, hunit] using h
      unfold runUnit at hrun
      split at hrun
      · exact .inr (.inr (.inl ⟨_, effect_of_exec hrun⟩))
      · exact .inr (.inl (by simpa using hrun.symm))
      · cases hrun

/-! ## The image -/

/-- No move and no operation touches the image or the input ports. -/
theorem perform_frame {s u : State} (h : perform s = .next u) : u.image = s.image ∧ u.env = s.env := by
  obtain rfl | rfl | ⟨i, hu⟩ | hu := perform_cases h
  · exact ⟨rfl, rfl⟩
  · exact ⟨rfl, rfl⟩
  · cases hu <;> exact ⟨rfl, rfl⟩
  · cases hu
    case answered hu => cases hu <;> exact ⟨rfl, rfl⟩
    all_goals exact ⟨rfl, rfl⟩

theorem step_image {s t : State} (h : step s = .next t) : t.image = s.image.update s.port.imgSet := by
  obtain ⟨u, hu, rfl⟩ := step_eq_next.mp h
  obtain ⟨himage, henv⟩ := perform_frame hu
  rw [State.endStep_image, himage, State.port, henv, State.port]

/-- Settles O56: only the image store's changes reach the image, and each keeps the form. -/
theorem imageMemoryStaysCanonical : Obligations.ImageMemoryStaysCanonical := by
  intro s t hwf h
  rw [step_image h]
  exact Memory.update_wf _ hwf

/-- Settles O57: what performs a step leaves the image alone, and the end of the step applies the store's changes. -/
theorem onlyTheImageStoreWritesTheImage : Obligations.OnlyTheImageStoreWritesTheImage := by
  intro s t h
  refine ⟨step_image h, fun hnone a => ?_⟩
  rw [step_image h, hnone, Memory.update_nil]

/-! ## The history on the ports -/

/-- What holds of the outstanding request and the history where these go on by output events, by lawful requests while none
waits, and by answers to the one that waits. -/
structure PortInvariant (P : Option PortRequest → List Event → Prop) : Prop where
  reset : P none []
  out : ∀ {o trace} (e : OutEvent), P o trace → P o (trace ++ [.out e])
  issue : ∀ {trace} {r : PortRequest}, r.lawful → P none trace → P (some r) (trace ++ [.issue r])
  answer : ∀ {r trace} (a : Reply), P (some r) trace → P none (trace ++ [.answer a])

namespace PortInvariant

variable {P : Option PortRequest → List Event → Prop} (hP : PortInvariant P)
include hP

theorem issued {s : State} {r : PortRequest} (h : P s.outstanding s.trace) (hl : r.lawful) (hr : s.ready r = true) :
    P (some r) (s.issued r).trace := by
  rw [State.issued_trace]
  obtain hw | hw := State.ready_iff.mp hr
  · rw [if_pos hw]
    exact hP.issue hl (hw ▸ h)
  · rw [if_neg (by simp [hw])]
    exact hw ▸ h

theorem effect {s u : State} {i : Instr} (h : P s.outstanding s.trace) (hu : Effect s i u) : P u.outstanding u.trace := by
  cases hu with
  | nop | clear | update | starts | ignores => exact h
  | waits hl hr => exact hP.issued h hl hr
  | answers a hl hr => exact hP.answer a (hP.issued h hl hr)
  | emits e => exact hP.out e h
  | resets => exact hP.reset

theorem takes {q u : State} {r : PortRequest} {a : BusAnswer} (h : P (some r) q.trace) (hu : Takes q a u) :
    P u.outstanding u.trace := by
  cases hu with
  | fails | rejected | expired | reported | finished => exact hP.out _ (hP.answer _ h)
  | identity | written | unlocked | mustWait | accepted => exact hP.answer _ h

end PortInvariant

/-- The requests of the transport states have the widths of R81. -/
theorem lawful_of_transportRequest {s : State} {r : PortRequest} (ht : s.transportRequest = some r) : r.lawful := by
  cases hf : s.fsm <;> simp only [State.transportRequest, hf, reduceCtorEq, Option.some.injEq] at ht <;> subst ht <;>
    simp [PortRequest.lawful]

namespace PortInvariant

variable {P : Option PortRequest → List Event → Prop} (hP : PortInvariant P)
include hP

theorem turn {s u : State} (h : P s.outstanding s.trace) (hu : Turn s u) : P u.outstanding u.trace := by
  cases hu with
  | start | rests | valid | outdated | built => exact h
  | invalid | unsupported | upToDate | advances => exact hP.out _ h
  | delayed hd hr => exact hP.answer _ (hP.issued h trivial hr)
  | left hf hr => exact hP.answer _ (hP.issued h trivial hr)
  | shortRead hf hr => exact hP.out _ (hP.answer _ (hP.issued h rfl hr))
  | fullRead hf hr => exact hP.answer _ (hP.issued h rfl hr)
  | waits ht hr => exact hP.issued h (lawful_of_transportRequest ht) hr
  | answered ht hr hb hu => exact hP.takes (hP.issued h (lawful_of_transportRequest ht) hr) hu

/-- Every step keeps it, units run alone included. -/
theorem step {s t : State} (h : P s.outstanding s.trace) (ht : step s = .next t) : P t.outstanding t.trace := by
  obtain ⟨u, hu, rfl⟩ := step_eq_next.mp ht
  obtain rfl | rfl | ⟨i, hu⟩ | hu := perform_cases hu
  · exact hP.reset
  · exact h
  · exact hP.effect (u := u) h hu
  · exact hP.turn (u := u) h hu

end PortInvariant

theorem inFlightAfter_none (xs : List Event) : inFlightAfter none xs = none := by
  induction xs with
  | nil => rfl
  | cons e rest ih =>
    cases e with
    | out e => exact ih
    | issue r | answer a => rfl

theorem inFlightAfter_append (p : Option (Option PortRequest)) (xs ys : List Event) :
    inFlightAfter p (xs ++ ys) = inFlightAfter (inFlightAfter p xs) ys := by
  induction xs generalizing p with
  | nil => simp [inFlightAfter]
  | cons e rest ih =>
    match p, e with
    | none, .out _ | some none, .out _ | some (some _), .out _ => exact ih _
    | some none, .issue r => exact ih _
    | some (some _), .answer a => exact ih _
    | none, .issue _ | none, .answer _ | some (some _), .issue _ | some none, .answer _ => exact (inFlightAfter_none ys).symm

/-- Settles O54: a request is issued only while none waits, and an answer comes only to the one that does. -/
theorem oneRequestInFlight : Obligations.OneRequestInFlight := by
  intro s t h ht
  refine PortInvariant.step (P := fun o trace => inFlightAfter (some none) trace = some o) ⟨rfl, ?_, ?_, ?_⟩ h ht
  · intro o trace e h
    rw [inFlightAfter_append, h]
    rfl
  · intro trace r _ h
    rw [inFlightAfter_append, h]
    rfl
  · intro r trace a h
    rw [inFlightAfter_append, h]
    rfl

/-- Settles O55: what is issued is lawful, and nothing else adds a request. -/
theorem requestsKeepTheirWidths : Obligations.RequestsKeepTheirWidths := by
  intro s t h ht
  refine PortInvariant.step (P := fun _ trace => ∀ r, Event.issue r ∈ trace → r.lawful) ⟨nofun, ?_, ?_, ?_⟩ h ht
  · intro o trace e h
    simpa using h
  · intro trace r hl h
    simpa [or_imp, forall_and] using ⟨h, hl⟩
  · intro r trace a h
    simpa using h

/-! ## Operations that may stand on their port -/

/-- Settles O12: the transport's answer, cut to the bytes the descriptor asks for. -/
theorem busReadsReturnTheAnswer : Obligations.BusReadsReturnTheAnswer := by
  refine ⟨rfl, rfl, fun s => ⟨fun hr => ?_, fun hr => ?_⟩⟩
  · refine (transport_of_ready (desc := descIdRead) hr).trans ?_
    match s.port.bus with
    | none | some .fail => rfl
    | some (.ok bytes) => rw [State.transacted, busReply_idRead]; rfl
  · refine (transport_of_ready (desc := descStatusRead) hr).trans ?_
    match s.port.bus with
    | none | some .fail => rfl
    | some (.ok bytes) => rw [State.transacted, busReply_statusRead]; rfl

/-- A write whose request may stand on the bus sends its frame and takes an answer without bytes. -/
theorem transport_write {s : State} {d : BitVec 9} {frame : List Byte} (hd : d.getLsbD 8 = true)
    (hr : s.ready (.bus Config.devAddr d frame) = true) : transport d frame s = .next
      (match s.port.bus with
        | none => s.issued (.bus Config.devAddr d frame)
        | some .fail => (s.issued (.bus Config.devAddr d frame)).answered .fail
        | some (.ok _) => (s.issued (.bus Config.devAddr d frame)).answered (.ok [])) := by
  rw [transport_of_ready hr]
  match s.port.bus with
  | none | some .fail => rfl
  | some (.ok bytes) => simp only [State.transacted, busReply, hd, if_true]

/-- Settles O13: the three writes are one law with three frames. -/
theorem busWritesSendTheFrame : Obligations.BusWritesSendTheFrame :=
  ⟨rfl, rfl, rfl, fun _ => ⟨transport_write rfl, transport_write rfl, transport_write rfl⟩⟩

/-- Settles O14: without an answer a transport state makes the move that puts its request on its port. -/
theorem unansweredRequestWaits : Obligations.UnansweredRequestWaits :=
  fun s r hq ht hr hb => (step_eq_next_iff_turn hq).mpr ⟨s.issued r, .waits ht hr hb, rfl⟩

theorem not_ready {s : State} {q r : PortRequest} (hs : s.outstanding = some q) (hne : q ≠ r) : s.ready r = false := by
  simp [State.ready, hs, hne]

theorem transport_stops {s : State} {q : PortRequest} {d : BitVec 9} {frame : List Byte} (hs : s.outstanding = some q)
    (hne : q ≠ .bus Config.devAddr d frame) : transport d frame s = .fault .requestInFlight := by
  simp [transport, issue_of_not_ready (not_ready hs hne)]

theorem delay_stops {s : State} {q : PortRequest} {k : TimerKind} (hs : s.outstanding = some q) (hne : q ≠ .tmr k) :
    delay k s = .fault .requestInFlight := by
  simp [delay, issue_of_not_ready (not_ready hs hne)]

theorem memRead_stops {s : State} {q : PortRequest} {off : U32} {n : Nat} (hs : s.outstanding = some q)
    (hne : q ≠ .img off n) : memRead off n s = .fault .requestInFlight := by
  simp [memRead, issue_of_not_ready (not_ready hs hne)]

/-- Settles O15: all ten go through `issue`, which stops where another request waits. -/
theorem secondRequestStops : Obligations.SecondRequestStops := fun _ _ hs =>
  ⟨transport_stops hs, transport_stops hs, transport_stops hs, transport_stops hs, transport_stops hs,
    fun _ => memRead_stops hs, delay_stops hs, delay_stops hs, delay_stops hs, delay_stops hs⟩

/-- Settles O16: the image port answers in the step that issues the request. -/
theorem imageReadAnswers : Obligations.ImageReadAnswers := fun off s =>
  ⟨decodeImg_append off, (imageReadDeliversTheFile s off 128).1, fun hr => memRead_eq_next.mpr ⟨hr, rfl⟩⟩

/-- Settles O19: each output operation is `emit` of its event. -/
theorem outputsAppendToTheLog : Obligations.OutputsAppendToTheLog :=
  fun _ => ⟨fun _ _ => rfl, fun _ => rfl, fun _ _ _ => rfl⟩

/-- Settles O42: the error entry is written out. -/
theorem errorEntryWrites : Obligations.ErrorEntryWrites := fun _ _ _ _ => rfl

/-! ## The reset -/

theorem resetBlock_seqStatus (s : State) : s.resetBlock.seqStatus = State.reset.seqStatus := rfl

/-- Settles O21: the reset answers `resetBlock`, whose fields are listed. -/
theorem resetClearsTheBlock : Obligations.ResetClearsTheBlock := fun _ s =>
  ⟨s.resetBlock, rfl, rfl, rfl, rfl, rfl, rfl, rfl, rfl, rfl, rfl, rfl, (resetBlock_seqStatus s).trans rfl, rfl, rfl, rfl, rfl, rfl,
    rfl, rfl, rfl, rfl, rfl, rfl, rfl, rfl⟩

/-- Settles O22: the fields of `State.reset`. -/
theorem resetStateHasTheSpecsValues : Obligations.ResetStateHasTheSpecsValues :=
  ⟨rfl, rfl, rfl, rfl, rfl, rfl, rfl, rfl, rfl, rfl, rfl⟩

/-- Settles O23: the reset is the step's first test. -/
theorem resetWinsOverTheStep : Obligations.ResetWinsOverTheStep := fun _ hrst => step_of_rst hrst

/-! ## What a step runs -/

/-- Settles O24: with `rst` low the presented word is the step's next test. -/
theorem stepRunsThePresentedWord : Obligations.StepRunsThePresentedWord := by
  intro s w i hrst hunit hdecode
  simp [step, cycle, perform, operate, hrst, hunit, runUnit, hdecode]

/-- A word presented on its port is what the step runs (log entries 6 and 7). -/
theorem step_of_present {s : State} {input : Input} {p : PortWord} {i : Instr} (hport : s.port = input.present p)
    (hdecode : decode p = .ok i) (hstart : i = .ctlStart → s.fsm = .idle) :
    step s = andThen (exec i s) fun t => .next t.endStep := by
  match p with
  | .ctl w =>
    have hctl : s.port.ctl = w := by rw [hport]; rfl
    have hunit : s.port.unit = none := by rw [hport]; rfl
    change decodeCtl w = .ok i at hdecode
    unfold decodeCtl at hdecode
    split_ifs at hdecode with hrst hs <;> cases hdecode
    · simp [step, cycle, perform, Input.rst, Input.start, hctl, hrst, -BitVec.getLsbD_eq_getElem]
    · simp [step, cycle, perform, operate, Input.rst, Input.start, hctl, hrst, hs, hunit, hstart rfl, -BitVec.getLsbD_eq_getElem]
  | .crc _ | .bus _ | .img _ | .tmr _ | .out _ =>
    have hctl : s.port.ctl = 0#2 := by rw [hport]; rfl
    exact stepRunsThePresentedWord s _ i (by simp [Input.rst, hctl]) (by rw [hport]; rfl) hdecode

/-- Settles O25: the table word is presented on the port it is read on. -/
theorem stepRunsTheFetchedWord : Obligations.StepRunsTheFetchedWord := by
  intro s nbits w i hdecode hstart
  refine step_of_present (s.withFetchWord_port nbits w) ?_ hstart
  unfold decodeTableWord at hdecode
  cases hd : decode (tablePortWord nbits w) with
  | ok j =>
    rw [hd] at hdecode
    cases hdecode
    rfl
  | error e =>
    rw [hd] at hdecode
    cases hdecode

/-- Settles O26: a quiet step is the start in `IDLE`, and else the sequencer's. -/
theorem stepRunsTheStatesOperation : Obligations.StepRunsTheStatesOperation := by
  refine fun s hq => ⟨fun hf hs => step_start hq hf hs, fun hf i hop => ?_, fun hf hop => ?_⟩
  · rw [step_sequencer hq hf, sequencerStep, hop]
  · rw [step_sequencer hq hf, sequencerStep_of_no_op hop]

/-- Settles O27: the operation of each state, read off the table of R186. -/
theorem statesIssueTheirOperations : Obligations.StatesIssueTheirOperations := by
  intro s
  cases hf : s.fsm <;> simp [stateOp, hf, State.nextOffset, eq_comm]

/-- Settles O28: the block rests in `IDLE` without a start and in the terminal states. -/
theorem idleAndTerminalStatesStay : Obligations.IdleAndTerminalStatesStay := by
  intro s hq hf
  refine (step_eq_next_iff_turn hq).mpr ⟨s, .rests ?_, rfl⟩
  obtain hf | hf | hf | hf := hf
  · exact .inl hf
  all_goals exact .inr (by rw [hf]; rfl)

/-! ## The invariants after reset -/

theorem inv_reset : Inv State.reset :=
  inv_resetBlock (s := State.reset) (Env.input_of_forall (P := fun i => i.unit = none) (fun _ => rfl) nofun nofun) rfl

/-- Settles O47: nothing is issued, sent or outstanding, and the environment is silent. -/
theorem resetMeetsTheInvariants : Obligations.ResetMeetsTheInvariants :=
  ⟨inv_reset, ⟨rfl, rfl, rfl, rfl⟩,
    ⟨Env.input_of_forall (P := fun i => i.imgSet = []) (fun _ => rfl) nofun nofun, rfl, nofun, rfl⟩,
    ⟨.start, rfl, rfl⟩, rfl, nofun, rfl⟩

end Sys2Proof.Machine
end

section
/-! SUPPORT. From every state of the invariant a quiet step has a move, and what every move does: where it leads (R222), which
registers it writes (R35 to R42, R52 to R56), and what a failure leaves as it was (R262, R263). -/

namespace Sys2Proof.Machine

/-! ## There is a move -/

/-- A transport state makes something of every answer. -/
theorem exists_takes {q : State} (hq : q.fsm.busError ≠ none) (a : BusAnswer) : ∃ u, Takes q a u := by
  match a with
  | .fail =>
    obtain ⟨c, hc⟩ := Option.ne_none_iff_exists'.mp hq
    exact ⟨_, .fails hc⟩
  | .ok v =>
    cases hf : q.fsm
    case idRead => exact ⟨_, .identity v hf⟩
    case unlockWrite | chunkWrite | resetWrite => exact ⟨_, .written v (by rw [hf]; rfl)⟩
    case unlockStatus =>
      by_cases hv : decodeStatus v[0] = .code .unlocked
      · exact ⟨_, .unlocked v hf hv⟩
      · exact ⟨_, .rejected v hf hv⟩
    case pollRead =>
      by_cases hwait : decodeStatus v[0] = .code .wait
      · cases hw : pollExpired Config.pollLimit q.waitCount
        · exact ⟨_, .mustWait v hf hwait hw⟩
        · exact ⟨_, .expired v hf hwait hw⟩
      by_cases hv : decodeStatus v[0] = .code .inProc ∨ decodeStatus v[0] = .code .done
      · exact ⟨_, .accepted v hf hv⟩
      · rw [not_or] at hv
        exact ⟨_, .reported v hf hwait hv.1 hv.2⟩
    case finalRead => exact ⟨_, .finished v hf⟩
    all_goals exact absurd (by rw [hf]; rfl) hq

/-- Where no request but the state's own waits, the own one may stand on its port. -/
theorem Inv.ready {s : State} {r : PortRequest} (h : Inv s) (ht : s.transportRequest = some r) : s.ready r = true := by
  obtain hn | ⟨-, he⟩ := h.inFlight
  · exact State.ready_iff.mpr (.inl hn)
  · exact State.ready_iff.mpr (.inr (he.trans ht))

/-- A transport state waits for its answer or takes it. -/
theorem Inv.exists_turn_of_transport {s : State} {r : PortRequest} (h : Inv s) (ht : s.transportRequest = some r) :
    ∃ u, Turn s u := by
  cases hb : s.port.bus with
  | none => exact ⟨_, .waits ht (h.ready ht) hb⟩
  | some a =>
    have hq : (s.issued r).fsm.busError ≠ none := by
      rw [State.issued_fsm, Ne, ← transportRequest_eq_none_iff, ht]
      nofun
    obtain ⟨u, hu⟩ := exists_takes hq a
    exact ⟨u, .answered ht (h.ready ht) hb hu⟩

/-- In every state of the invariant some move can be made. -/
theorem Inv.exists_turn {s : State} (h : Inv s) : ∃ u, Turn s u := by
  cases ht : s.transportRequest with
  | some r => exact h.exists_turn_of_transport ht
  | none =>
    have hr : ∀ r, s.ready r = true := fun r => State.ready_iff.mpr (.inl (h.outstanding_eq_none ht))
    cases hf : s.fsm
    case idle =>
      cases hs : s.port.start
      · exact ⟨_, .rests (.inl ⟨hf, hs⟩)⟩
      · exact ⟨_, .start hf hs⟩
    case validate =>
      by_cases hv : s.imgMagic = Config.footerMagic ∧ goodSize s.imgSize = true
      · exact ⟨_, .valid hf hv⟩
      · exact ⟨_, .invalid hf hv⟩
    case gate =>
      by_cases hlow : s.devRev < Config.minRev
      · exact ⟨_, .unsupported hf hlow⟩
      by_cases heq : s.devRev = s.imgRev.setWidth 16
      · exact ⟨_, .upToDate hf (BitVec.not_lt.mp hlow) heq⟩
      · exact ⟨_, .outdated hf (BitVec.not_lt.mp hlow) heq⟩
    case unlockBuild => exact ⟨_, .built hf⟩
    case unlockSettle | chunkSettle | pollDelay => exact ⟨_, .delayed (by rw [hf]; rfl) (hr _)⟩
    case chunkRead =>
      by_cases hd : (s.imageBytes s.offset 128).length < 128
      · exact ⟨_, .shortRead hf (hr _) hd⟩
      · exact ⟨_, .fullRead hf (hr _) hd⟩
    case advance => exact ⟨_, .advances hf⟩
    case resetDelay => exact ⟨_, .left hf (hr _)⟩
    case complete | upToDate | fail => exact ⟨_, .rests (.inr (by rw [hf]; rfl))⟩
    all_goals
      rw [State.transportRequest, hf] at ht
      cases ht

/-- Settles O49: the reset answers always, and a quiet step wherever there is a move. -/
theorem stepNeverStops : Obligations.StepNeverStops := by
  intro s h
  by_cases hrst : s.port.rst = true
  · exact ⟨_, step_of_rst hrst⟩
  · obtain ⟨u, hu⟩ := h.exists_turn
    exact ⟨_, (step_eq_next_iff_turn (quiet_iff.mpr ⟨Bool.eq_false_iff.mpr hrst, h.noUnit 0⟩)).mpr ⟨u, hu, rfl⟩⟩

/-! ## Where a move leads -/

/-- The table of R222, for a move from a state with `fsm = f`. -/
def Follows (f : Fsm) (u : State) : Prop :=
  u.fsm ∈ f.successors ∨ u.fsm = .fail ∧ u.err ∈ f.errors ∨ u.fsm = f ∧ f.mayStay = true

theorem follows_written {f g : Fsm} (h : f.written = some g) : g ∈ f.successors := by
  cases f <;> simp only [Fsm.written, reduceCtorEq] at h <;> cases h <;> decide

theorem follows_delayed {f g : Fsm} {k : TimerKind} (h : f.delayed = some (k, g)) : g ∈ f.successors := by
  cases f <;> simp only [Fsm.delayed, reduceCtorEq] at h <;> cases h <;> decide

/-- A failure of the transport is an error of the table, and the state may wait for the transport. -/
theorem busError_mem {f : Fsm} {c : ErrCode} (h : f.busError = some c) : c ∈ f.errors ∧ f.mayStay = true := by
  cases f <;> simp only [Fsm.busError, reduceCtorEq] at h <;> cases h <;> decide

theorem Takes.follows {q u : State} {a : BusAnswer} (h : Takes q a u) : Follows q.fsm u := by
  cases h with
  | fails hc => exact .inr (.inl ⟨rfl, (busError_mem hc).1⟩)
  | written v hf => exact .inl (follows_written hf)
  | rejected v hf | expired v hf | reported v hf => exact .inr (.inl ⟨rfl, by simp [hf, Fsm.errors]⟩)
  | identity v hf | unlocked v hf | mustWait v hf | accepted v hf | finished v hf => exact .inl (by simp [hf, Fsm.successors])

theorem Turn.follows {s u : State} (h : Turn s u) : Follows s.fsm u := by
  cases h with
  | rests hf =>
    refine .inr (.inr ⟨rfl, ?_⟩)
    obtain ⟨hf, -⟩ | hf := hf
    · rw [hf]; rfl
    · cases hs : s.fsm <;> simp only [hs, Fsm.terminal, Bool.false_eq_true] at hf <;> rfl
  | invalid hf | unsupported hf | shortRead hf => exact .inr (.inl ⟨rfl, by simp [hf, Fsm.errors]⟩)
  | delayed hd hr => exact .inl (follows_delayed hd)
  | advances hf => exact .inl (by dsimp only; split <;> simp [hf, Fsm.successors])
  | waits ht hr hb =>
    obtain ⟨c, hc⟩ := Option.ne_none_iff_exists'.mp (mt transportRequest_eq_none_iff.mpr (by rw [ht]; nofun))
    exact .inr (.inr ⟨rfl, (busError_mem hc).2⟩)
  | answered ht hr hb hu => exact hu.follows
  | start hf | valid hf | upToDate hf | outdated hf | built hf | left hf | fullRead hf => exact .inl (by simp [hf, Fsm.successors])

/-- Settles O40: every move follows the table, and in `IDLE` the start alone leads on. -/
theorem transitionsFollowTheTable : Obligations.TransitionsFollowTheTable := by
  refine fun s t ht => ⟨fun hrst => ?_, fun hq => ?_, fun hq hf => ?_⟩
  · rw [step_of_rst hrst] at ht
    cases ht
    rfl
  · obtain ⟨u, hu, rfl⟩ := (step_eq_next_iff_turn hq).mp ht
    exact hu.follows
  · obtain ⟨u, hu, rfl⟩ := (step_eq_next_iff_turn hq).mp ht
    cases hs : s.port.start with
    | true => simp [turn_of_start hf hs hu]
    | false =>
      obtain rfl := sequencer_idle hf (sequencerStep_of_turn (fun _ => hs) hu)
      simp [hf]

/-! ## Which registers a move writes -/

/-- From `s`, a move to `u` writes only registers whose writers the spec names (R35 to R42, R52 to R56). -/
structure WritesOwn (s u : State) : Prop where
  footer : s.fsm ≠ .idle → u.imgSize = s.imgSize ∧ u.imgRev = s.imgRev ∧ u.imgMagic = s.imgMagic
  identity : s.fsm ≠ .idRead → u.devRev = s.devRev ∧ u.idblk = s.idblk
  ubuf : s.fsm ≠ .unlockBuild → u.ubuf = s.ubuf
  offset : s.fsm ≠ .unlockStatus → s.fsm ≠ .advance → u.offset = s.offset
  chunk : s.fsm ≠ .chunkRead → u.chunk = s.chunk
  crc : s.fsm ≠ .unlockBuild → s.fsm ≠ .chunkRead → u.crc = s.crc
  st : s.fsm ≠ .unlockStatus → s.fsm ≠ .pollRead → s.fsm ≠ .finalRead → u.st = s.st
  waitCount : s.fsm ≠ .chunkRead → s.fsm ≠ .pollRead → u.waitCount = s.waitCount
  doneSeen : s.fsm ≠ .finalRead → u.doneSeen = s.doneSeen
  error : u.fsm ≠ .fail → u.err = s.err ∧ u.errInfo = s.errInfo ∧ u.errBus = s.errBus
  exitCode : u.fsm.terminal = false → u.exitCode = s.exitCode

theorem writesOwn_rfl {s : State} : WritesOwn s s :=
  ⟨fun _ => ⟨rfl, rfl, rfl⟩, fun _ => ⟨rfl, rfl⟩, fun _ => rfl, fun _ _ => rfl, fun _ => rfl, fun _ _ => rfl, fun _ _ _ => rfl,
    fun _ _ => rfl, fun _ => rfl, fun _ => ⟨rfl, rfl, rfl⟩, fun _ => rfl⟩

/-- The states of the sequencer, the ports and the history are no registers of the list. -/
theorem writesOwn_of_frame {s u : State} (h : u = { s with
    fsm := u.fsm, out := u.out, trace := u.trace, outstanding := u.outstanding, reply := u.reply }) : WritesOwn s u := by
  rw [h]
  exact { writesOwn_rfl (s := s) with error := fun _ => ⟨rfl, rfl, rfl⟩, exitCode := fun _ => rfl }

/-- The error entry writes no register but its own. -/
theorem WritesOwn.raiseFatal {s u : State} (h : WritesOwn s u) (c : ErrCode) (i : Byte) (b : Bool) :
    WritesOwn s (u.raiseFatal c i b) :=
  { h with error := fun hf => absurd rfl hf, exitCode := nofun }

/-- The status reads write `st`. -/
theorem writesOwn_st {q u : State} (hf : q.fsm = .unlockStatus ∨ q.fsm = .pollRead ∨ q.fsm = .finalRead)
    (h : WritesOwn q { u with st := q.st }) : WritesOwn q u :=
  { h with st := fun h1 h2 h3 => by simp [h1, h2, h3] at hf }

theorem Takes.writesOwn {q u : State} {a : BusAnswer} (h : Takes q a u) : WritesOwn q u := by
  cases h with
  | fails hc => exact (writesOwn_of_frame rfl).raiseFatal _ _ _
  | written v hf => exact writesOwn_of_frame rfl
  | identity v hf =>
    exact { writesOwn_rfl (s := q) with identity := absurd hf, error := fun _ => ⟨rfl, rfl, rfl⟩, exitCode := fun _ => rfl }
  | rejected v hf =>
    refine (writesOwn_st (.inl hf) ?_).raiseFatal _ _ _
    exact writesOwn_of_frame rfl
  | expired v hf | reported v hf =>
    refine (writesOwn_st (.inr (.inl hf)) ?_).raiseFatal _ _ _
    exact writesOwn_of_frame rfl
  | accepted v hf => exact writesOwn_st (.inr (.inl hf)) (writesOwn_of_frame rfl)
  | unlocked v hf =>
    exact { writesOwn_rfl (s := q) with
      st := absurd hf, offset := absurd hf, error := fun _ => ⟨rfl, rfl, rfl⟩, exitCode := fun _ => rfl }
  | mustWait v hf =>
    exact { writesOwn_rfl (s := q) with
      st := fun _ => absurd hf, waitCount := fun _ => absurd hf, error := fun _ => ⟨rfl, rfl, rfl⟩, exitCode := fun _ => rfl }
  | finished v hf =>
    exact { writesOwn_rfl (s := q) with
      st := fun _ _ => absurd hf, doneSeen := absurd hf, error := fun _ => ⟨rfl, rfl, rfl⟩, exitCode := fun _ => rfl }

theorem Turn.writesOwn {s u : State} (h : Turn s u) : WritesOwn s u := by
  cases h with
  | rests | valid | outdated | delayed | waits => exact writesOwn_of_frame rfl
  | invalid | unsupported | shortRead => exact (writesOwn_of_frame rfl).raiseFatal _ _ _
  | start hf =>
    exact { writesOwn_rfl (s := s) with footer := absurd hf, error := fun _ => ⟨rfl, rfl, rfl⟩, exitCode := fun _ => rfl }
  | upToDate | left => exact { writesOwn_rfl (s := s) with error := fun _ => ⟨rfl, rfl, rfl⟩, exitCode := nofun }
  | built hf =>
    exact { writesOwn_rfl (s := s) with
      crc := absurd hf, ubuf := absurd hf, error := fun _ => ⟨rfl, rfl, rfl⟩, exitCode := fun _ => rfl }
  | fullRead hf =>
    exact { writesOwn_rfl (s := s) with
      crc := fun _ => absurd hf, chunk := absurd hf, waitCount := absurd hf, error := fun _ => ⟨rfl, rfl, rfl⟩,
      exitCode := fun _ => rfl }
  | advances hf =>
    exact { writesOwn_rfl (s := s) with
      offset := fun _ => absurd hf, error := fun _ => ⟨rfl, rfl, rfl⟩, exitCode := fun _ => rfl }
  | answered ht hr hb hu => exact { hu.writesOwn with }

/-- Settles O41: every move writes only what its state owns. -/
theorem registersHaveTheirWriters : Obligations.RegistersHaveTheirWriters := by
  intro s t hq ht
  obtain ⟨u, hu, rfl⟩ := (step_eq_next_iff_turn hq).mp ht
  have h := hu.writesOwn
  exact ⟨h.footer, h.identity, h.ubuf, h.offset, h.chunk, h.crc, h.st, h.waitCount, h.doneSeen, h.error, h.exitCode⟩

/-! ## What a failure leaves -/

/-- The move from `s` to `u` is the error entry, with operands of R261, and writes no register of `s` but `st`, and `st` only where
it read the status byte it reports. -/
def Fails (s u : State) : Prop := ∃ q c i b, u = State.raiseFatal c i b q ∧ goodDiag c i b = true ∧
  q = { s with st := q.st, outstanding := none, reply := q.reply, trace := q.trace } ∧
  (q.st = s.st ∨ (s.fsm = .unlockStatus ∨ s.fsm = .pollRead) ∧ i = q.st)

theorem Takes.fails_of_fail {q u : State} {a : BusAnswer} (h : Takes q a u) (hu : u.fsm = .fail) : Fails q u := by
  cases h with
  | fails hc => exact ⟨_, _, _, _, rfl, (goodDiag_busError hc).2, rfl, .inl rfl⟩
  | rejected v hf => exact ⟨_, _, _, _, rfl, rfl, rfl, .inr ⟨.inl hf, rfl⟩⟩
  | expired v hf | reported v hf => exact ⟨_, _, _, _, rfl, rfl, rfl, .inr ⟨.inr hf, rfl⟩⟩
  | written v hf => cases hu; exact absurd (follows_written hf) (by cases q.fsm <;> decide)
  | identity | unlocked | mustWait | accepted | finished => cases hu

theorem Turn.fails_of_fail {s u : State} (h : Inv s) (hs : s.fsm ≠ .fail) (hu : Turn s u) (hfail : u.fsm = .fail) :
    Fails s u := by
  cases hu with
  | rests => exact absurd hfail hs
  | invalid hf | unsupported hf =>
    exact ⟨s, _, _, _, rfl, rfl, by rw [← h.no_request hf rfl], .inl rfl⟩
  | shortRead hf => exact ⟨_, _, _, _, rfl, rfl, rfl, .inl rfl⟩
  | waits => exact absurd hfail hs
  | answered ht hr hb hu =>
    obtain ⟨q, c, i, b, rfl, hd, hq, hst⟩ := hu.fails_of_fail hfail
    exact ⟨q, c, i, b, rfl, hd, hq, hst⟩
  | delayed hd => cases hfail; exact absurd (follows_delayed hd) (by cases s.fsm <;> decide)
  | advances hf => dsimp only at hfail; split at hfail <;> cases hfail
  | start | valid | upToDate | outdated | built | left | fullRead => cases hfail

/-- Settles O43: a move into `FAIL` is the error entry, behind at most an answer taken and a status byte read. -/
theorem failureIsPrecise : Obligations.FailureIsPrecise := by
  intro s t h hq hs ht hfail
  obtain ⟨u, hu, rfl⟩ := (step_eq_next_iff_turn hq).mp ht
  obtain ⟨q, c, i, b, rfl, hd, hframe, hst⟩ := hu.fails_of_fail h hs hfail
  rw [hframe]
  exact ⟨rfl, rfl, rfl, rfl, rfl, rfl, rfl, rfl, rfl, rfl, rfl, rfl, rfl, rfl, hd, hst⟩

end Sys2Proof.Machine
end

section
/-! SUPPORT. Whole runs (R227, R305, R308). A device that answers `WAIT` holds the block in its poll loop; and else every step but
one without an answer brings the block nearer to its end, by the measure `State.stepsLeft`. -/

namespace Sys2Proof.Machine

/-! ## Runs -/

theorem run_succ {s t : State} (h : step s = .next t) (k : Nat) : core.run (k + 1) s = core.run k t := by
  have h : core.step s = .next t := h
  simp only [Host.Core.run, h]

/-- In a quiet step of the invariant every move can be made; the invariant goes on behind it, and so do the inputs. -/
theorem Inv.step {s u : State} (h : Inv s) (hrst : s.port.rst = false) (hu : Turn s u) :
    Machine.step s = .next u.endStep ∧ Inv u.endStep ∧ u.endStep.env = s.env.next := by
  have hq : s.quiet = true := quiet_iff.mpr ⟨hrst, h.noUnit 0⟩
  obtain ⟨-, henv⟩ := perform_frame ((perform_eq_next_iff_turn hq).mpr hu)
  exact ⟨(step_eq_next_iff_turn hq).mpr ⟨u, hu, rfl⟩, (h.turn hu).endStep, by rw [State.endStep_env, henv]⟩

/-! ## The poll loop -/

/-- A `WAIT` answer without a limit: the block is off to the poll delay. -/
theorem Inv.step_wait {s : State} (h : Inv s) (hf : s.fsm = .pollRead) (hlimit : Config.pollLimit = none)
    (hrst : s.port.rst = false) (hwait : s.port.saysWait = true) :
    ∃ t, Machine.step s = .next t ∧ Inv t ∧ t.fsm = .pollDelay ∧ t.waitCount = s.waitCount + 1 ∧ t.env = s.env.next := by
  unfold Input.saysWait at hwait
  split at hwait
  next v hb =>
    have ht : s.transportRequest = some (.bus Config.devAddr descStatusRead []) := by rw [State.transportRequest, hf]
    have hu := Turn.answered ht (h.ready ht) hb (.mustWait v hf (of_decide_eq_true hwait) (by rw [hlimit]; rfl))
    obtain ⟨hstep, hinv, henv⟩ := h.step hrst hu
    exact ⟨_, hstep, hinv, rfl, rfl, henv⟩
  next => cases hwait

theorem Inv.step_pollDelay {s : State} (h : Inv s) (hf : s.fsm = .pollDelay) (hrst : s.port.rst = false) :
    ∃ t, Machine.step s = .next t ∧ Inv t ∧ t.fsm = .pollRead ∧ t.waitCount = s.waitCount ∧ t.env = s.env.next := by
  have hr : s.ready (.tmr .poll) = true := State.ready_iff.mpr (.inl (h.no_request hf rfl))
  obtain ⟨hstep, hinv, henv⟩ := h.step hrst (.delayed (f := .pollRead) (by rw [hf]; rfl) hr)
  exact ⟨_, hstep, hinv, rfl, rfl, henv⟩

/-- Two steps bring the block round the loop once. -/
theorem run_waiting (hlimit : Config.pollLimit = none) (k : Nat) {s : State} (h : Inv s) (hf : s.fsm = .pollRead)
    (hin : ∀ n < k, (s.env.input n).rst = false ∧ (s.env.input n).saysWait = true) :
    ∃ t, core.run k s = .next t ∧ t.fsm = (if k % 2 = 0 then .pollRead else .pollDelay) ∧
      t.waitCount = s.waitCount + (k + 1) / 2 := by
  induction k using Nat.twoStepInduction generalizing s with
  | zero => exact ⟨s, rfl, hf, rfl⟩
  | one =>
    obtain ⟨hrst, hwait⟩ := hin 0 (by omega)
    obtain ⟨t, hstep, -, hft, hcount, -⟩ := h.step_wait hf hlimit hrst hwait
    exact ⟨t, run_succ hstep 0, hft, hcount⟩
  | more k ih _ =>
    obtain ⟨hrst, hwait⟩ := hin 0 (by omega)
    obtain ⟨t, hstep, hinv, hft, hcount, henv⟩ := h.step_wait hf hlimit hrst hwait
    have hnow : t.port.rst = false := by
      rw [State.port, henv]
      exact (hin 1 (by omega)).1
    obtain ⟨u, hstep', hinv', hfu, hcount', henv'⟩ := hinv.step_pollDelay hft hnow
    obtain ⟨v, hrun, hfv, hcountv⟩ := ih hinv' hfu fun n hn => by
      rw [henv', henv]
      exact hin (n + 2) (by omega)
    refine ⟨v, by rw [run_succ hstep, run_succ hstep', hrun], ?_, by omega⟩
    rw [hfv]
    simp [Nat.add_mod_right]

/-- The device answers `WAIT`. -/
def waitingDevice : Input := { Input.silent with bus := some (.ok (Vector.replicate 32 (statusEnc .wait))) }

/-- The poll loop after the first chunk write of a two-chunk image (the chunk all zeros), with a device that answers `WAIT` for
ever. -/
def heldState : State := { State.reset with
  fsm := .pollRead
  imgSize := 256#32
  imgRev := 0#8
  imgMagic := Config.footerMagic
  devRev := revision Config.revOrder 0x09#8 0x09#8
  idblk := Vector.replicate 32 0x09#8
  ubuf := bufOf 13 (unlockFields Config.magicKey Config.flashLoc 256#32 ++
    [crc8 (unlockFields Config.magicKey Config.flashLoc 256#32)])
  env := ⟨[], .repeats [waitingDevice]⟩ }

theorem heldState_input (n : Nat) : heldState.env.input n = waitingDevice :=
  Env.input_of_forall (P := (· = waitingDevice)) (fun h => by cases h) (fun _ h => by cases h) (fun _ => List.mem_singleton.mp) n

/-- Both byte orders read `0x0909`, which the gate passes. -/
theorem revision_same (o : RevOrder) : revision o 0x09#8 0x09#8 = 0x0909#16 := by cases o <;> rfl

theorem heldState_inv : Inv heldState where
  noUnit n := by rw [heldState_input]; rfl
  imageWf := rfl
  replyNone := rfl
  inFlight := .inl rfl
  imageGood _ := ⟨rfl, (by decide : goodSize 256#32 = true)⟩
  revision _ := rfl
  gatePassed _ := by
    change Config.minRev ≤ revision Config.revOrder 0x09#8 0x09#8 ∧ revision Config.revOrder 0x09#8 0x09#8 ≠ (0#8).setWidth 16
    rw [revision_same]
    decide
  upToDate := nofun
  unlockFrame _ := bufOf_toList rfl
  offsetInside _ := ⟨rfl, (by decide : 0 + 128 ≤ 256)⟩
  offsetAtEnd := nofun
  chunkSealed _ := by decide +kernel
  failed := ⟨rfl, rfl, rfl⟩
  exitFail := ⟨nofun, nofun⟩
  doneLate := nofun
  outGood := nofun
  diagOnce := rfl

/-- Settles O59: `heldState` is held, and the loop runs for every number of steps. -/
theorem waitRepliesHoldTheBlock : Obligations.WaitRepliesHoldTheBlock := by
  refine ⟨⟨heldState, heldState_inv, rfl, fun n => ?_⟩, fun k s h hf hin => ?_⟩
  · rw [heldState_input]
    exact ⟨rfl, by simp [Input.saysWait, waitingDevice]⟩
  · cases hlimit : Config.pollLimit with
    | some n => exact .inl ⟨n, rfl⟩
    | none => exact .inr (run_waiting hlimit k h hf hin)

end Sys2Proof.Machine
end

section
/-! SUPPORT. A run that is answered ends (R227, R308): each step brings the block nearer to its end, or the transport does not
answer in it, or it is a `WAIT` that `POLL_LIMIT` allows. -/

namespace Sys2Proof.Machine

/-! ## The measure -/

/-- How many chunks of the image lie behind the one in transfer. -/
def State.chunksBehind (s : State) : Nat := (s.imgSize.toNat - s.offset.toNat) / 128 - 1

/-- How many steps a state is away from its run's end, if every request is answered and no answer is `WAIT` (R227). -/
def State.stepsLeft (s : State) : Nat :=
  match s.fsm with
  | .idle => 8 + 5 * 1024 + 3
  | .validate => 7 + 5 * 1024 + 3
  | .idRead => 6 + 5 * 1024 + 3
  | .gate => 5 + 5 * 1024 + 3
  | .unlockBuild => 4 + 5 * 1024 + 3
  | .unlockWrite => 3 + 5 * 1024 + 3
  | .unlockSettle => 2 + 5 * 1024 + 3
  | .unlockStatus => 1 + 5 * 1024 + 3
  | .chunkRead => 5 * s.chunksBehind + 8
  | .chunkWrite => 5 * s.chunksBehind + 7
  | .chunkSettle => 5 * s.chunksBehind + 6
  | .pollRead => 5 * s.chunksBehind + 5
  | .pollDelay => 5 * s.chunksBehind + 6
  | .advance => 5 * s.chunksBehind + 4
  | .finalRead => 3
  | .resetWrite => 2
  | .resetDelay => 1
  | .complete | .upToDate | .fail => 0

/-- How many `WAIT` answers the run can still take under a `POLL_LIMIT` of `some m`. -/
def State.waitsLeft (m : Nat) (s : State) : Nat :=
  match s.fsm with
  | .chunkRead | .chunkWrite | .chunkSettle => s.chunksBehind * m + m
  | .pollRead | .pollDelay => s.chunksBehind * m + (m - s.waitCount)
  | .advance => s.chunksBehind * m
  | .finalRead | .resetWrite | .resetDelay | .complete | .upToDate | .fail => 0
  | _ => 1024 * m

/-- What a step of a run does to the measure. -/
inductive Progress (s u : State) : Prop
  | nearer (hsteps : u.stepsLeft < s.stepsLeft) (hwaits : ∀ m, u.waitsLeft m ≤ s.waitsLeft m)
  | late (hlate : s.port.late = true) (hsteps : u.stepsLeft = s.stepsLeft) (hwaits : ∀ m, u.waitsLeft m = s.waitsLeft m)
  | waits (hwait : s.port.saysWait = true) (hsteps : u.stepsLeft = s.stepsLeft + 1)
      (hwaits : ∀ m, Config.pollLimit = some m → u.waitsLeft m < s.waitsLeft m)

theorem stepsLeft_of_terminal {s : State} (h : s.fsm.terminal = true) : s.stepsLeft = 0 := by
  cases hf : s.fsm <;> simp only [hf, Fsm.terminal, Bool.false_eq_true] at h <;> simp only [State.stepsLeft, hf]

theorem waitsLeft_of_terminal {s : State} (h : s.fsm.terminal = true) (m : Nat) : s.waitsLeft m = 0 := by
  cases hf : s.fsm <;> simp only [hf, Fsm.terminal, Bool.false_eq_true] at h <;> simp only [State.waitsLeft, hf]

theorem terminal_of_stepsLeft {s : State} (h : s.stepsLeft = 0) : s.fsm.terminal = true := by
  cases hf : s.fsm <;> simp [State.stepsLeft, hf, Fsm.terminal] at h ⊢

/-- A move to an end of the run is progress. -/
theorem progress_of_terminal {s u : State} (hs : s.fsm.terminal = false) (hu : u.fsm.terminal = true) : Progress s u := by
  refine .nearer ?_ fun m => by rw [waitsLeft_of_terminal hu]; exact Nat.zero_le _
  rw [stepsLeft_of_terminal hu]
  refine Nat.pos_of_ne_zero fun h => ?_
  rw [terminal_of_stepsLeft h] at hs
  cases hs

/-- At the image's start all its chunks but one lie behind, and it has 1024 at most (R203). -/
theorem Inv.chunksBehind_lt {s : State} (h : Inv s) (hf : s.fsm.accepted = true) : s.imgSize.toNat / 128 - 1 < 1024 := by
  obtain ⟨-, hmax, -⟩ := goodSize_iff.mp (h.imageGood hf).2
  omega

/-- After a chunk one chunk less lies behind (R215). -/
theorem Inv.chunksBehind_advanced {s u : State} (h : Inv s) (hf : s.fsm = .advance) (hsize : u.imgSize = s.imgSize)
    (hoff : u.offset = s.nextOffset) (hmore : s.nextOffset ≠ s.imgSize) : s.chunksBehind = u.chunksBehind + 1 := by
  obtain ⟨-, -, hmod, hoffmod, hend⟩ := h.offset_facts (by rw [hf]; rfl)
  have hnext := nextOffset_toNat hend
  have hne : s.nextOffset.toNat ≠ s.imgSize.toNat := fun e => hmore (BitVec.eq_of_toNat_eq e)
  rw [State.chunksBehind, State.chunksBehind, hsize, hoff]
  omega

/-- Going on to the next chunk is progress. -/
theorem progress_advanced {s u : State} (hf : s.fsm = .advance) (hu : u.fsm = .chunkRead)
    (hbehind : s.chunksBehind = u.chunksBehind + 1) : Progress s u := by
  refine .nearer ?_ fun m => ?_
  · simp only [State.stepsLeft, hf, hu]
    omega
  · simp only [State.waitsLeft, hf, hu, hbehind, Nat.add_one_mul, Nat.le_refl]

/-- A transport state is no end of a run. -/
theorem terminal_of_busError {f : Fsm} {c : ErrCode} (h : f.busError = some c) : f.terminal = false := by
  cases f <;> simp only [Fsm.busError, reduceCtorEq] at h <;> rfl

/-- The `WAIT` answer under a limit takes one of those left. -/
theorem waitsLeft_mustWait {q u : State} {m : Nat} (hf : q.fsm = .pollRead) (hu : u.fsm = .pollDelay)
    (hbehind : u.chunksBehind = q.chunksBehind) (hcount : u.waitCount = q.waitCount + 1)
    (hw : pollExpired (some m) q.waitCount = false) : u.waitsLeft m < q.waitsLeft m := by
  have hm : q.waitCount + 1 < m := by simpa [pollExpired] using hw
  simp only [State.waitsLeft, hf, hu, hbehind, hcount]
  omega

theorem Inv.progress_takes {q u : State} {a : BusAnswer} (h : Inv q) (hb : q.port.bus = some a) (hu : Takes q a u) :
    Progress q u := by
  cases hu with
  | fails hc => exact progress_of_terminal (terminal_of_busError hc) rfl
  | rejected v hf | expired v hf | reported v hf => exact progress_of_terminal (by rw [hf]; rfl) rfl
  | written v hf =>
    cases hq : q.fsm <;> simp only [hq, Fsm.written, reduceCtorEq] at hf <;> cases hf <;>
      exact .nearer (by simp [State.stepsLeft, hq, State.chunksBehind]) fun m => by simp [State.waitsLeft, hq, State.chunksBehind]
  | unlocked v hf =>
    have hlt := h.chunksBehind_lt (by rw [hf]; rfl)
    refine .nearer ?_ fun m => ?_
    · simp only [State.stepsLeft, hf, State.chunksBehind, State.answered_imgSize, BitVec.toNat_ofNat]
      omega
    · have hmul := Nat.mul_le_mul_right m (Nat.succ_le_of_lt hlt)
      rw [Nat.succ_mul] at hmul
      simpa [State.waitsLeft, hf, State.chunksBehind] using hmul
  | mustWait v hf hv hw =>
    refine .waits (by simp [Input.saysWait, hb, hv]) (by simp [State.stepsLeft, hf, State.chunksBehind]) fun m hlimit => ?_
    rw [hlimit] at hw
    exact waitsLeft_mustWait hf rfl rfl rfl hw
  | identity v hf | accepted v hf | finished v hf =>
    exact .nearer (by simp [State.stepsLeft, hf, State.chunksBehind]) fun m => by simp [State.waitsLeft, hf, State.chunksBehind]

/-- A move from a state of a run that has not ended is progress. -/
theorem Inv.progress {s u : State} (h : Inv s) (hs : s.fsm.terminal = false) (hi : s.fsm ≠ .idle ∨ s.port.start = true)
    (hu : Turn s u) : Progress s u := by
  cases hu with
  | rests hr =>
    obtain ⟨hf, hlow⟩ | ht := hr
    · simp [hf, hlow] at hi
    · rw [hs] at ht
      cases ht
  | invalid | unsupported | upToDate | left | shortRead => exact progress_of_terminal hs rfl
  | delayed hd =>
    cases hf : s.fsm <;> simp only [hf, Fsm.delayed, reduceCtorEq] at hd <;> cases hd <;>
      exact .nearer (by simp [State.stepsLeft, hf, State.chunksBehind]) fun m => by simp [State.waitsLeft, hf, State.chunksBehind]
  | advances hf =>
    by_cases hlast : s.nextOffset = s.imgSize
    · exact .nearer (by simp [State.stepsLeft, hf, hlast]) fun m => by simp [State.waitsLeft, hlast]
    · exact progress_advanced hf (if_neg hlast) (h.chunksBehind_advanced hf rfl rfl hlast)
  | waits ht hr hb => exact .late (by simp [Input.late, hb]) rfl fun _ => rfl
  | answered ht hr hb hu =>
    cases (h.issued ht).progress_takes hb hu with
    | nearer hsteps hwaits => exact .nearer hsteps hwaits
    | late hlate hsteps hwaits => exact .late hlate hsteps hwaits
    | waits hwait hsteps hwaits => exact .waits hwait hsteps hwaits
  | start hf | valid hf | outdated hf | built hf | fullRead hf =>
    exact .nearer (by simp [State.stepsLeft, hf, State.chunksBehind]) fun m => by simp [State.waitsLeft, hf, State.chunksBehind]

/-! ## The end of a run -/

/-- How many of the inputs' `WAIT` answers the run can still take (R305, R308). -/
def State.waitsAhead (limit : Option Nat) (inputs : List Input) (s : State) : Nat :=
  match limit with
  | none => inputs.countP Input.saysWait
  | some m => min (inputs.countP Input.saysWait) (s.waitsLeft m)

/-- The steps that are enough to end the run from `s` on these inputs. -/
def State.budget (limit : Option Nat) (inputs : List Input) (s : State) : Nat :=
  s.stepsLeft + 2 * s.waitsAhead limit inputs + inputs.countP Input.late

section
variable {s u : State} {limit : Option Nat} {i : Input} (rest : List Input)

theorem countP_rest_le (p : Input → Bool) : rest.countP p ≤ (i :: rest).countP p := (List.sublist_cons_self i rest).countP_le

theorem waitsAhead_le (hw : ∀ m, u.waitsLeft m ≤ s.waitsLeft m) : u.waitsAhead limit rest ≤ s.waitsAhead limit (i :: rest) := by
  cases limit with
  | none => exact countP_rest_le rest _
  | some m => exact min_le_min (countP_rest_le rest _) (hw m)

theorem waitsAhead_lt (hi : i.saysWait = true) (hw : ∀ m, limit = some m → u.waitsLeft m < s.waitsLeft m) :
    u.waitsAhead limit rest < s.waitsAhead limit (i :: rest) := by
  have hcount : rest.countP Input.saysWait < (i :: rest).countP Input.saysWait := by
    rw [List.countP_cons_of_pos hi]
    exact Nat.lt_succ_self _
  cases limit with
  | none => exact hcount
  | some m => exact min_lt_min hcount (hw m rfl)

end

/-- Progress pays for its step. -/
theorem Progress.budget_lt {s u : State} (h : Progress s u) (rest : List Input) :
    u.budget Config.pollLimit rest < s.budget Config.pollLimit (s.port :: rest) := by
  rw [State.budget, State.budget]
  have hlate := countP_rest_le (i := s.port) rest Input.late
  cases h with
  | nearer hsteps hwaits =>
    have := waitsAhead_le (limit := Config.pollLimit) (i := s.port) rest hwaits
    omega
  | late hlate hsteps hwaits =>
    have := waitsAhead_le (limit := Config.pollLimit) (i := s.port) rest fun m => (hwaits m).le
    rw [List.countP_cons_of_pos hlate]
    omega
  | waits hwait hsteps hwaits =>
    have := waitsAhead_lt rest hwait hwaits
    omega

/-- From a state of the invariant the bound of R308 is enough. -/
theorem Inv.stepsLeft_le {s : State} (h : Inv s) : s.stepsLeft ≤ 8 + 5 * 1024 + 3 ∧ ∀ m, s.waitsLeft m ≤ 1024 * m := by
  by_cases ht : s.fsm.transferring = true
  · obtain ⟨-, hmax, -, -, -⟩ := h.offset_facts ht
    have hlt : s.chunksBehind < 1024 := by
      rw [State.chunksBehind]
      omega
    refine ⟨?_, fun m => ?_⟩
    · cases hf : s.fsm <;> simp only [State.stepsLeft, hf] <;> omega
    · have hmul := Nat.mul_le_mul_right m (Nat.succ_le_of_lt hlt)
      rw [Nat.succ_mul] at hmul
      cases hf : s.fsm <;> simp only [State.waitsLeft, hf] <;> omega
  · cases hf : s.fsm <;> simp [State.stepsLeft, State.waitsLeft, hf, Fsm.transferring] at ht ⊢

theorem Inv.budget_le {s : State} (h : Inv s) (limit : Option Nat) (inputs : List Input) :
    s.budget limit inputs ≤ runBound limit inputs := by
  obtain ⟨hsteps, hwaits⟩ := h.stepsLeft_le
  have hbound : s.waitsAhead limit inputs ≤ waitBound limit inputs := by
    cases limit with
    | none => exact Nat.le_refl _
    | some m => exact min_le_min_left _ (hwaits m)
  rw [State.budget, runBound]
  omega

/-- A run does not come back to `IDLE`. -/
theorem Turn.ne_idle {s u : State} (hi : s.fsm ≠ .idle ∨ s.port.start = true) (hu : Turn s u) : u.fsm ≠ .idle := by
  by_cases hf : s.fsm = .idle
  · rw [turn_of_start hf (hi.resolve_left (not_not_intro hf)) hu]
    nofun
  · obtain hsucc | ⟨hfail, -⟩ | ⟨hstay, -⟩ := hu.follows
    · exact fun e => absurd (e ▸ hsucc) (by cases s.fsm <;> decide)
    · rw [hfail]
      nofun
    · rw [hstay]
      exact hf

/-- A run that has ended stays where it is (R228). -/
theorem run_of_terminal (n : Nat) {s : State} (h : Inv s) (hs : s.fsm.terminal = true)
    (hrst : ∀ k < n, (s.env.input k).rst = false) : ∃ t, core.run n s = .next t ∧ t.fsm.terminal = true := by
  induction n generalizing s with
  | zero => exact ⟨s, rfl, hs⟩
  | succ n ih =>
    obtain ⟨hstep, hinv, henv⟩ := h.step (hrst 0 (Nat.succ_pos n)) (.rests (.inr hs))
    rw [run_succ hstep]
    exact ih hinv hs fun k hk => henv ▸ hrst (k + 1) (Nat.succ_lt_succ hk)

/-- A started run ends within its budget. -/
theorem run_ends (n : Nat) {s : State} (h : Inv s) (hi : s.fsm ≠ .idle ∨ s.port.start = true)
    (hrst : ∀ k < n, (s.env.input k).rst = false) (hb : s.budget Config.pollLimit (s.env.first n) ≤ n) :
    ∃ t, core.run n s = .next t ∧ t.fsm.terminal = true := by
  induction n generalizing s with
  | zero =>
    rw [State.budget] at hb
    exact ⟨s, rfl, terminal_of_stepsLeft (by omega)⟩
  | succ n ih =>
    cases hs : s.fsm.terminal with
    | true => exact run_of_terminal (n + 1) h hs hrst
    | false =>
      obtain ⟨u, hu⟩ := h.exists_turn
      obtain ⟨hstep, hinv, henv⟩ := h.step (hrst 0 (Nat.succ_pos n)) hu
      have hlt := (h.progress hs hi hu).budget_lt (s.env.next.first n)
      rw [Env.first_succ] at hb
      rw [run_succ hstep]
      refine ih hinv (.inl (Turn.ne_idle hi hu : u.fsm ≠ .idle)) (fun k hk => henv ▸ hrst (k + 1) (Nat.succ_lt_succ hk)) ?_
      rw [henv]
      exact Nat.le_of_lt_succ (Nat.lt_of_lt_of_le hlt hb)

/-- Settles O60: the bound is enough for the budget of the first state. -/
theorem answeredRunsEnd : Obligations.AnsweredRunsEnd := fun _ n h hi hrst hn =>
  run_ends n h hi hrst ((h.budget_le _ _).trans hn)

end Sys2Proof.Machine
end
